-- ==== Sys2Proof/Word.lean ====
section
/-! DEFINITION. The machine words of the spec: 12-bit registers and RAM cells, program bytes, program
addresses and port words (00_scope.md R6, 20_memory.md R60 and R65). -/

namespace Sys2Proof

/-- A 12-bit register or RAM cell (00_scope.md R6, 10_state.md R20). -/
abbrev Word := BitVec 12

/-- One byte of program space; also the width of I, vgColour and vgShiftLength (10_state.md R23, R28, R29). -/
abbrev Byte := BitVec 8

/-- An address of the 64K program space (20_memory.md R60). -/
abbrev Addr := BitVec 16

/-- A port word (20_memory.md R65). -/
abbrev PortWord := BitVec 16

end Sys2Proof
end

