-- ==== Sys2Proof/Config.lean ====
section
/-! DEFINITION. What is fixed for one machine: the three configuration enumerations (00_scope.md R5), the
dispatch states that the placeholder set speaks of (10_state.md R34), the types of the open parameters
(00_scope.md R7), and the two values that the environment answers freely (93_implementation_defined.md U8, U9). -/

namespace Sys2Proof

/-- Which instruction opcodes 0x51 and 0x59 name (00_scope.md R5). -/
inductive JumpPolarity where
  | jmiMode
  | jeiMode
  deriving DecidableEq, Repr

/-- The address space size, read by the far jump alone (00_scope.md R5). -/
inductive AddressSpaceSize where
  | msize4K
  | msize8K
  | msize16K
  | msize32K
  deriving DecidableEq, Repr

/-- The monitor colour mode, read by OUT alone (00_scope.md R5). -/
inductive MonitorMode where
  | bilevel
  | level16
  | level64
  | color
  deriving DecidableEq, Repr

/-- The dispatch state (10_state.md R34). Its transition functions are in Machine/Ops.lean. -/
inductive DispatchState where
  | a
  | aa
  | b
  | bb
  deriving DecidableEq, Repr

/-- A set of dispatch-table entries that are placeholders (00_scope.md R7, 44_shift.md R212), as a list. -/
abbrev PlaceholderSet := List (DispatchState × Byte)

/-- The arguments of an open colour formula: acc, FromX, FromY, vgColour (00_scope.md R7). -/
abbrev ColourArgs := Word × Word × Word × Byte

/-- A total function from `ColourArgs` to a colour, written as the finite list of the arguments at which it
differs from the spec's default "return the last argument" (00_scope.md R7, log 8). Every function of these
finitely many arguments is one such list, so a statement for every state is a statement for every formula. -/
abbrev ColourFn := List (ColourArgs × Byte)

/-- Cycle costs (00_scope.md R7): arguments of `run`, read by no instruction. -/
structure CostModel where
  /-- `Cost`: the base cost of an opcode byte. -/
  cost : Byte → Nat
  /-- `WAIT_PENALTY`: the spec gives it no default. -/
  waitPenalty : Nat
  /-- `LLT_STEP_COST`: per LLT shift step, default 0. -/
  lltStepCost : Nat := 0

/-- FREE VALUE. The byte that `Fetch` answers at an address with no program behind it: any byte, the same at
every read of a run (93_implementation_defined.md U8, log 2). -/
opaque Config.freeByte : Addr → Byte

/-- FREE VALUE. The word that `PortRead` answers when the state holds no answer of the host for it: any word,
a fresh one for every read (93_implementation_defined.md U9, log 3). -/
opaque Config.freePortWord : Nat → PortWord

/-- DESIGN CHOICE (log 5): the configuration that `State.reset` holds, the one 95_test_vectors.md starts its
vectors from; 10_state.md R38 leaves it unspecified before the first `configure`. -/
def Config.resetPolarity : JumpPolarity := .jmiMode

/-- DESIGN CHOICE (log 5), see `Config.resetPolarity`. -/
def Config.resetSize : AddressSpaceSize := .msize8K

/-- DESIGN CHOICE (log 5), see `Config.resetPolarity`. -/
def Config.resetMonitor : MonitorMode := .bilevel

end Sys2Proof
end

