-- ==== Sys2Proof/Machine/Defaults.lean ====
section
/-! DEFINITION. The default instances that the spec gives its open parameters (00_scope.md R7). -/

namespace Sys2Proof.Machine

/-- The default `PlaceholderSet` (44_shift.md R212): the single-length F forms in every state, and the double-length
left shifts and ASRDF on the B side; 18 entries. -/
def defaultPlaceholders : PlaceholderSet :=
  [(.a, 0xFB), (.aa, 0xFB), (.b, 0xFB), (.bb, 0xFB),
   (.a, 0xFC), (.aa, 0xFC), (.b, 0xFC), (.bb, 0xFC),
   (.a, 0xFD), (.aa, 0xFD), (.b, 0xFD), (.bb, 0xFD),
   (.b, 0xEF), (.bb, 0xEF), (.b, 0xFE), (.bb, 0xFE), (.b, 0xFF), (.bb, 0xFF)]

/-- The default `Colour64` and `ColourGame`: no exception to "vgColour unchanged" (46_io_vector.md R253). -/
def defaultColourFn : ColourFn := []

/-- The default `Cost` (70_reset_and_hazards.md R330): 0 for LLT and WAI in both alias bytes, 2 for the extended
immediate forms, 1 for every other opcode. -/
def defaultCost (op : Byte) : Nat :=
  if op = 0xE4#8 ∨ op = 0xF4#8 ∨ op = 0xE5#8 ∨ op = 0xF5#8 then 0
  else if op = 0x20#8 ∨ op = 0x30#8 then 2
  else 1

/-- The default cost model for a given `WAIT_PENALTY`, which has no default (70_reset_and_hazards.md R330). -/
def defaultCosts (waitPenalty : Nat) : CostModel :=
  { cost := defaultCost, waitPenalty := waitPenalty }

end Sys2Proof.Machine
end

