-- ==== Sys2Proof/Machine/Memory.lean ====
section
/-! DEFINITION. Sparse memory as plain data: cells sorted by address, in one canonical form. RAM
(10_state.md R33) and program storage (20_memory.md R61) are two uses of it. -/

namespace Sys2Proof.Machine

/-- The RAM of the core: 12-bit cells (10_state.md R33). An unlisted cell reads as its reset value 0 (R38). -/
abbrev Ram := List (Nat × Word)

/-- Program storage, owned by the host (20_memory.md R61). An unlisted address holds no program byte (log 2). -/
abbrev ProgramStore := List Host.Cell

/-- The value listed at an address. -/
def cellAt? {α : Type} : List (Nat × α) → Nat → Option α
  | [], _ => none
  | (k, v) :: rest, addr => if k = addr then some v else cellAt? rest addr

/-- List a value at an address, keeping the addresses rising. -/
def putCell {α : Type} : List (Nat × α) → Nat → α → List (Nat × α)
  | [], addr, v => [(addr, v)]
  | (k, x) :: rest, addr, v =>
    if addr < k then (addr, v) :: (k, x) :: rest
    else if addr = k then (addr, v) :: rest
    else (k, x) :: putCell rest addr v

/-- Unlist an address. -/
def dropCell {α : Type} : List (Nat × α) → Nat → List (Nat × α)
  | [], _ => []
  | (k, x) :: rest, addr => if k = addr then rest else (k, x) :: dropCell rest addr

/-- The canonical form from address `lo` up: addresses strictly rising and below `limit`, and every listed value
one that `keep` allows. -/
def cellsWf {α : Type} (limit : Nat) (keep : α → Bool) : Nat → List (Nat × α) → Bool
  | _, [] => true
  | lo, (k, v) :: rest => decide (lo ≤ k) && decide (k < limit) && keep v && cellsWf limit keep (k + 1) rest

/-- Canonical RAM: 256 cells, and no cell listed with the value 0 that an unlisted cell reads as. -/
def ramWf (m : Ram) : Bool := cellsWf 256 (fun v => decide (v ≠ 0)) 0 m

/-- Canonical program storage: 65536 addresses; any byte may be listed, since an unlisted address has none. -/
def programWf (m : ProgramStore) : Bool := cellsWf 65536 (fun _ => true) 0 m

/-- Both memories of a state are in canonical form, so that equal memories are equal data. -/
def Memory.wf (ram : Ram) (prog : ProgramStore) : Bool := ramWf ram && programWf prog

/-- `MemRead(a, 12)` (00_scope.md R9): an unlisted cell reads as 0, its reset value (10_state.md R38). -/
def ramRead (m : Ram) (ea : BitVec 8) : Word := (cellAt? m ea.toNat).getD 0

/-- `MemWrite(a, 12, v)` (00_scope.md R9); writing 0 unlists the cell. -/
def ramWrite (m : Ram) (ea : BitVec 8) (v : Word) : Ram :=
  if v = 0 then dropCell m ea.toNat else putCell m ea.toNat v

/-- The host puts a byte into program storage (no instruction does, 20_memory.md R61). -/
def programWrite (m : ProgramStore) (addr : Addr) (v : Byte) : ProgramStore := putCell m addr.toNat v

end Sys2Proof.Machine
end

