-- ==== Sys2Proof/Machine/State.lean ====
section
/-! DEFINITION. The machine state as plain data: everything 10_state.md gives the machine, the parameters and the
environment a step reads, and the outputs of the latest step; and the state after reset. -/

namespace Sys2Proof.Machine

/-- The five logical ports (20_memory.md R65). -/
inductive Port where
  | switches
  | inputs
  | outputs
  | joyX
  | joyY
  deriving DecidableEq, Repr

/-- One interface operation of a step, with the word a PortRead was answered (00_scope.md R8, 10_state.md R36). -/
inductive IfaceOp where
  /-- `Fetch(a)`. -/
  | fetch (addr : Addr)
  /-- `PortRead(p)` and its answer. -/
  | portRead (port : Port) (answer : PortWord)
  /-- `PortWrite(p, v)`. -/
  | portWrite (port : Port) (word : PortWord)
  /-- `EmitVector(x0, y0, x1, y1, c)`. -/
  | emitVector (x0 y0 x1 y1 : Int) (colour : Byte)
  deriving DecidableEq, Repr

/-- The outputs of one step (10_state.md R36). They are part of no snapshot, and the next step begins by
clearing them (log 11). -/
structure StepOut where
  /-- The interface operations, in the order performed. -/
  ops : List IfaceOp := []
  /-- The CounterReset signal (46_io_vector.md R251). -/
  counterReset : Bool := false
  /-- The WaitRequest signal (46_io_vector.md R258). -/
  waitRequest : Bool := false
  /-- A jump was taken (45_jump.md R220, R221). -/
  taken : Bool := false
  /-- Shift steps performed by LLT (46_io_vector.md R257). -/
  lltSteps : Nat := 0
  deriving DecidableEq, Repr

/-- The machine. Fields `pc` to `ram` are the snapshot of 10_state.md R39. -/
structure State where
  /-- Program counter (10_state.md R22). -/
  pc : Addr
  /-- Accumulator A (10_state.md R21). -/
  a : Word
  /-- Accumulator B (10_state.md R21). -/
  b : Word
  /-- Last accessed RAM index I (10_state.md R23). -/
  i : Byte
  /-- Jump target J (10_state.md R24). -/
  j : Word
  /-- Page register P (10_state.md R25). -/
  p : BitVec 4
  /-- T, which no instruction reads or writes (10_state.md R26). -/
  t : Word
  /-- Vector origin X (10_state.md R27). -/
  fromX : Word
  /-- Vector origin Y (10_state.md R27). -/
  fromY : Word
  /-- Draw colour (10_state.md R28). -/
  vgColour : Byte
  /-- Interpolation shift length (10_state.md R29). -/
  vgShiftLength : Byte
  /-- cmp_old: the accumulator before the latest operation (10_state.md R30). -/
  cmpOld : Word
  /-- cmp_new: the operand of the latest operation (10_state.md R30). -/
  cmpNew : Word
  /-- acc_a0: bit 0 of the accumulator before its latest write (10_state.md R31). -/
  accA0 : Bool
  /-- Carry scratch (10_state.md R32). -/
  carry : BitVec 16
  /-- Dispatch state (10_state.md R34). -/
  ds : DispatchState
  /-- The 256 RAM cells (10_state.md R33). -/
  ram : Ram
  /-- Configuration register JumpPolarity (10_state.md R35). -/
  jumpPolarity : JumpPolarity
  /-- Configuration register AddressSpaceSize (10_state.md R35). -/
  addressSpaceSize : AddressSpaceSize
  /-- Configuration register MonitorMode (10_state.md R35). -/
  monitorMode : MonitorMode
  /-- Parameter PlaceholderSet (00_scope.md R7, log 7). -/
  placeholders : PlaceholderSet
  /-- Parameter Colour64 (00_scope.md R7, log 8). -/
  colour64 : ColourFn
  /-- Parameter ColourGame (00_scope.md R7, log 8). -/
  colourGame : ColourFn
  /-- Program storage, the host's (20_memory.md R61, log 1). -/
  prog : ProgramStore
  /-- The model's own: answers the host has ready for the coming PortReads, in order (log 3). -/
  portIn : List PortWord
  /-- The model's own: how many PortReads were made (log 4). -/
  portReads : Nat
  /-- Outputs of the latest step (10_state.md R36). -/
  out : StepOut
  deriving DecidableEq, Repr

/-- Why the machine stops with a fault: there is no way. No instruction can fault (60_exceptions.md R270,
40_dispatch.md R120), so this type has no constructor (log 13). -/
inductive Fault where
  deriving DecidableEq, Repr

/-- Why an instruction is refused. No instruction is (30_encoding.md R102, 40_dispatch.md R130; log 13). -/
inductive Refusal where
  /-- Required by the host's interface for an arm of `exec` without a meaning. Raised by nothing: every arm has its
  meaning. Safe: a refusal claims nothing about the hardware. -/
  | notModelled (mnemonic : String)
  deriving DecidableEq, Repr

/-- The machine right after reset (10_state.md R38, 70_reset_and_hazards.md R300): every snapshot element 0 and
`ds` = A. Reset touches neither the configuration, nor the parameters, nor the environment (R302): here they hold
the spec's defaults (logs 7 and 8), the configuration of log 5, no program (log 1) and no ready port answer
(logs 3 and 4). -/
def State.reset : State where
  pc := 0
  a := 0
  b := 0
  i := 0
  j := 0
  p := 0
  t := 0
  fromX := 0
  fromY := 0
  vgColour := 0
  vgShiftLength := 0
  cmpOld := 0
  cmpNew := 0
  accA0 := false
  carry := 0
  ds := .a
  ram := []
  jumpPolarity := Config.resetPolarity
  addressSpaceSize := Config.resetSize
  monitorMode := Config.resetMonitor
  placeholders := defaultPlaceholders
  colour64 := defaultColourFn
  colourGame := defaultColourFn
  prog := []
  portIn := []
  portReads := 0
  out := {}

end Sys2Proof.Machine
end

