-- ==== Sys2Proof/Machine/Ops.lean ====
section
/-! DEFINITION. The named operations over registers, memory, ports and the dispatch state that the meanings share.
Taking an exception and returning from one have no operation here: the hardware has no exception, no trap entry
and no trap return (60_exceptions.md R270 to R274), and no instruction raises anything. -/

namespace Sys2Proof

/-! ### The dispatch state -/

/-- `side(ds) = B` (00_scope.md R9). -/
def DispatchState.onB : DispatchState → Bool
  | .a | .aa => false
  | .b | .bb => true

/-- Whether the state says "previous instruction accumulator-class" (40_dispatch.md R127). -/
def DispatchState.prevAcc : DispatchState → Bool
  | .a | .b => false
  | .aa | .bb => true

/-- `idle(ds)` (00_scope.md R9, 40_dispatch.md R125). -/
def DispatchState.idle : DispatchState → DispatchState
  | .a | .aa => .a
  | .b | .bb => .b

/-- `flip(ds)`, the B-flip (40_dispatch.md R126). -/
def DispatchState.flip : DispatchState → DispatchState
  | .a => .b
  | .aa => .bb
  | .b => .b
  | .bb => .b

end Sys2Proof

namespace Sys2Proof.Machine

/-- The next dispatch state. -/
def State.setDs (d : DispatchState) (s : State) : State := { s with ds := d }

/-- Next state of an accumulator-class instruction (40_dispatch.md R125). -/
def State.toAA (s : State) : State := s.setDs .aa

/-- Next state of an idle-class instruction (40_dispatch.md R125). -/
def State.toIdle (s : State) : State := s.setDs s.ds.idle

/-- Next state of a B-flip instruction (40_dispatch.md R126). -/
def State.toFlip (s : State) : State := s.setDs s.ds.flip

/-! ### Registers -/

/-- `acc`, the selected accumulator (40_dispatch.md R124). -/
def State.acc (s : State) : Word := if s.ds.onB then s.b else s.a

/-- Write the selected accumulator; the other one keeps its value (40_dispatch.md R124). -/
def State.setAcc (v : Word) (s : State) : State :=
  { s with a := if s.ds.onB then s.a else v, b := if s.ds.onB then v else s.b }

/-- Write both accumulators. -/
def State.setAB (a b : Word) (s : State) : State := { s with a := a, b := b }

/-- Write I. -/
def State.setI (ea : Byte) (s : State) : State := { s with i := ea }

/-- Write J. -/
def State.setJ (target : Word) (s : State) : State := { s with j := target }

/-- Write P. -/
def State.setP (n : BitVec 4) (s : State) : State := { s with p := n }

/-- Write the vector origin. -/
def State.setFrom (x y : Word) (s : State) : State := { s with fromX := x, fromY := y }

/-- Write the draw colour. -/
def State.setColour (c : Byte) (s : State) : State := { s with vgColour := c }

/-- Write the shift length and report how many shift steps were made. -/
def State.setShiftLength (n : Byte) (steps : Nat) (s : State) : State :=
  { s with vgShiftLength := n, out := { s.out with lltSteps := steps } }

/-- Write the four lagged flags: the comparison pair, the A0 flag, and the raw 16-bit carry scratch
(10_state.md R30, R31, R32). -/
def State.setFlags (old operand : Word) (a0 : Bool) (raw : Nat) (s : State) : State :=
  { s with cmpOld := old, cmpNew := operand, accA0 := a0, carry := BitVec.ofNat 16 raw }

/-- Advance PC past one byte, modulo 65536 (10_state.md R22). -/
def State.advance (s : State) : State := { s with pc := s.pc + 1 }

/-! ### RAM -/

/-- Read a RAM cell (20_memory.md R68). -/
def State.readRam (s : State) (ea : Byte) : Word := ramRead s.ram ea

/-- Write a RAM cell (20_memory.md R68). -/
def State.writeRam (ea : Byte) (v : Word) (s : State) : State := { s with ram := ramWrite s.ram ea v }

/-! ### Program space -/

/-- What `Fetch(a)` answers (20_memory.md R61): the byte the host stored there, else a free byte (log 2). -/
def State.programByte (s : State) (addr : Addr) : Byte := (cellAt? s.prog addr.toNat).getD (Config.freeByte addr)

/-- The host stores a program byte; no instruction does (20_memory.md R61). -/
def State.storeProgram (addr : Addr) (v : Byte) (s : State) : State := { s with prog := programWrite s.prog addr v }

/-! ### Interface operations -/

/-- Perform one interface operation: it is appended to the outputs of the step (20_memory.md R69). -/
def State.perform (op : IfaceOp) (s : State) : State := { s with out := { s.out with ops := s.out.ops ++ [op] } }

/-- `Fetch(a)` as an interface operation; the byte is `s.programByte a`. -/
def State.fetchAt (addr : Addr) (s : State) : State := s.perform (.fetch addr)

/-- The word that the next PortRead is answered: the host's next answer, else a free word (logs 3 and 4). -/
def State.portAnswer (s : State) : PortWord := s.portIn.headD (Config.freePortWord s.portReads)

/-- `PortRead(p)` as an interface operation; the word is `s.portAnswer`. Answers are used up, so two reads may
differ (70_reset_and_hazards.md R332). -/
def State.portRead (port : Port) (s : State) : State :=
  { s.perform (.portRead port s.portAnswer) with portIn := s.portIn.tail, portReads := s.portReads + 1 }

/-- `PortWrite(p, v)`. -/
def State.portWrite (port : Port) (w : PortWord) (s : State) : State := s.perform (.portWrite port w)

/-- `Signal(CounterReset)` when `cond` holds (46_io_vector.md R251). -/
def State.signalCounterReset (cond : Bool) (s : State) : State :=
  { s with out := { s.out with counterReset := s.out.counterReset || cond } }

/-- `Signal(WaitRequest)` (46_io_vector.md R258). -/
def State.signalWait (s : State) : State := { s with out := { s.out with waitRequest := true } }

/-- A jump to `target` when `cond` holds, with the `taken` output (45_jump.md R220); else PC stays past the opcode. -/
def State.branch (cond : Bool) (target : Addr) (s : State) : State :=
  { s with
    pc := if cond then target else s.pc
    out := { s.out with taken := s.out.taken || cond } }

/-- A step begins with no output pending (10_state.md R36, log 11). -/
def State.clearOut (s : State) : State := { s with out := {} }

end Sys2Proof.Machine
end

