-- ==== Sys2Proof/Machine/Operands.lean ====
section
/-! DEFINITION. Operand forms and the data paths of the instructions: addressing, immediates, jump targets and tests,
the one-bit shifts, the colour and vector arithmetic. -/

namespace Sys2Proof.Machine

/-! ### Addressing and immediates -/

/-- The address `(P, n)` of a direct operand (20_memory.md R62). -/
def directAddr (n : BitVec 4) (s : State) : Byte := s.p ++ n

/-- Direct addressing: I receives the address before RAM is accessed (20_memory.md R62). -/
def State.direct (n : BitVec 4) (s : State) : State := s.setI (directAddr n s)

/-- The LDAI immediate: the nibble in bits 11..8 (30_encoding.md R104). -/
def highImmediate (n : BitVec 4) : Word := n ++ 0#8

/-- The RAM cell I points at: indirect addressing (20_memory.md R63), and direct addressing after `State.direct`. -/
def State.cellAtI (s : State) : Word := s.readRam s.i

/-- The low byte of a cell, which LDI loads into I (20_memory.md R64). -/
def lowByte (v : Word) : Byte := v.setWidth 8

/-! ### Jumps -/

/-- `PCop`, the address of the opcode byte, from PC after the opcode fetch (00_scope.md R9). -/
def State.opAddr (s : State) : Addr := s.pc - 1

/-- `page(PCop)` (00_scope.md R9). -/
def State.opPage (s : State) : Addr := s.opAddr &&& 0xF000#16

/-- The in-page target `page(PCop) | J` (45_jump.md R220). -/
def State.inPageTarget (s : State) : Addr := s.opPage ||| s.j.setWidth 16

/-- The code page of the far jump (45_jump.md R221): `(P - 1) mod 4`, `P mod 4` or `P mod 8` by size. -/
def farPage (size : AddressSpaceSize) (p : BitVec 4) : BitVec 4 :=
  match size with
  | .msize4K => (p - 1) &&& 0x3#4
  | .msize8K => (p - 1) &&& 0x3#4
  | .msize16K => p &&& 0x3#4
  | .msize32K => p &&& 0x7#4

/-- The far-jump target (45_jump.md R221): page times 4096 plus J. -/
def State.farTarget (s : State) : Addr := farPage s.addressSpaceSize s.p ++ s.j

/-- The value JMI tests (45_jump.md R226): the lagged `cmp_old` after an accumulator-class instruction, else the
live selected accumulator. -/
def State.minusValue (s : State) : Word := if s.ds.prevAcc then s.cmpOld else s.acc

/-- `minus`, bit 11 of the value JMI tests (45_jump.md R226). -/
def State.minus (s : State) : Bool := s.minusValue.getLsbD 11

/-- JLT's condition, an unsigned comparison (45_jump.md R224). -/
def State.less (s : State) : Bool := decide (s.cmpNew.toNat < s.cmpOld.toNat)

/-- JEQ's condition (45_jump.md R225). -/
def State.equal (s : State) : Bool := decide (s.cmpNew = s.cmpOld)

/-- JNC's condition: `carry[15:12] = 0` (45_jump.md R231). -/
def State.noCarry (s : State) : Bool := decide (s.carry.extractLsb' 12 4 = 0)

/-- JEI's axis port: JOYY when bit 7 of the OUTPUTS word is 0, else JOYX (45_jump.md R228). -/
def axisPort (outputs : PortWord) : Port := if outputs.getLsbD 7 then .joyX else .joyY

/-- `sext12` (00_scope.md R9). -/
def sext12 (v : Word) : Int := v.toInt

/-- JEI's condition: the axis word, unsigned, minus the signed FromX is below 0x800 (45_jump.md R228). -/
def near (axis : PortWord) (fromX : Word) : Bool := decide ((axis.toNat : Int) - sext12 fromX < 0x800)

/-- The two port reads of JEI: OUTPUTS, then the axis (45_jump.md R228). -/
def State.readAxis (s : State) : State := (s.portRead .outputs).portRead (axisPort s.portAnswer)

/-- The axis word that `State.readAxis` reads, the second of its two answers. -/
def State.axisAnswer (s : State) : PortWord := (s.portRead .outputs).portAnswer

/-- JEI's condition in a state (45_jump.md R228). -/
def State.nearJoystick (s : State) : Bool := near s.axisAnswer s.fromX

/-! ### XLT -/

/-- The program address XLT reads: the page of its opcode plus the selected accumulator (43_xlt_mul.md R190). -/
def State.xltAddr (s : State) : Addr := s.opPage + s.acc.setWidth 16

/-! ### One-bit shifts -/

/-- Logical shift right one place (44_shift.md R202). -/
def lsr12 (v : Word) : Word := v >>> 1

/-- Logical shift left one place, the top bit lost (44_shift.md R203). -/
def lsl12 (v : Word) : Word := v <<< 1

/-- `asr12` (00_scope.md R9): shift right one place keeping bit 11. -/
def asr12 (v : Word) : Word := (v >>> 1) ||| (v &&& 0x800#12)

/-- The low half of the pair (B, A) shifted right one place: B's bit 0 enters bit 11 (44_shift.md R205,
43_xlt_mul.md R191). -/
def pairLow (a b : Word) : Word := b.extractLsb' 0 1 ++ a.extractLsb' 1 11

/-- The magic constant of a shift opcode: its low nibble, then the whole opcode (44_shift.md R200). -/
def magic (op : Byte) : Word := op.extractLsb' 0 4 ++ op

/-- Whether a table entry is a placeholder (44_shift.md R212). -/
def State.isPlaceholder (s : State) (op : Byte) : Bool := s.placeholders.contains (s.ds, op)

/-! ### LLT -/

/-- "Agreement": bits 11 and 9 are equal (46_io_vector.md R257). -/
def agrees (v : Word) : Bool := v.getLsbD 11 == v.getLsbD 9

/-- The LLT loop with at most `fuel` further steps (46_io_vector.md R257): how many shift steps it makes, and
the accumulators it ends with. -/
def lltLoop : Nat → Word → Word → Nat × Word × Word
  | 0, a, b => (0, a, b)
  | fuel + 1, a, b =>
    if agrees a && agrees b then
      let r := lltLoop fuel (lsl12 a) (lsl12 b)
      (r.1 + 1, r.2)
    else (0, a, b)

/-- The count LLT writes: the steps, or 0 when the 8-bit counter overflowed at 256 (46_io_vector.md R257). -/
def lltCount (steps : Nat) : Byte := if steps = 256 then 0 else BitVec.ofNat 8 steps

/-! ### Ports and colour -/

/-- One bit of a port word as an accumulator value (46_io_vector.md R250). -/
def bitWord (w : PortWord) (k : Nat) : Word := if w.getLsbD k then 1 else 0

/-- The bit index of OUT, and of INP on the B side: `op[2:0]` (30_encoding.md R104). -/
def bitIndex3 (n : BitVec 4) : Nat := (n.extractLsb' 0 3).toNat

/-- INP's port (46_io_vector.md R250): SWITCHES on the B side, INPUTS on the A side. -/
def inpPort (d : DispatchState) : Port := if d.onB then .switches else .inputs

/-- INP's bit index (46_io_vector.md R250): three bits of the opcode on the B side, four on the A side. -/
def inpIndex (d : DispatchState) (n : BitVec 4) : Nat := if d.onB then bitIndex3 n else n.toNat

/-- The word OUT writes back: bit `k` set when the accumulator is even, cleared when it is odd, and the low 8 bits
of the result kept (46_io_vector.md R251). -/
def outWord (w : PortWord) (k : Nat) (odd : Bool) : PortWord :=
  (if odd then w &&& ~~~(1#16 <<< k) else w ||| (1#16 <<< k)) &&& 0x00FF#16

/-- An open colour formula at its arguments: the listed value, else the last argument (00_scope.md R7, log 8). -/
def applyColourFn (f : ColourFn) (args : ColourArgs) : Byte := (f.lookup args).getD args.2.2.2

/-- The colour OUT 6 leaves in vgColour, by monitor mode (46_io_vector.md R253). -/
def State.colourResult (s : State) : Byte :=
  match s.monitorMode with
  | .bilevel => if s.acc.getLsbD 0 then 0x0F else 0x07
  | .level16 =>
    if s.acc.getLsbD 0 then s.vgColour
    else if s.fromX.extractLsb' 0 4 = 0 then 0x01
    else (s.fromX.extractLsb' 0 4).setWidth 8
  | .level64 => applyColourFn s.colour64 (s.acc, s.fromX, s.fromY, s.vgColour)
  | .color => applyColourFn s.colourGame (s.acc, s.fromX, s.fromY, s.vgColour)

/-! ### Vectors -/

/-- `floor_shr(d, n)`, an arithmetic shift of a signed integer (00_scope.md R9). -/
def floorShr (d : Int) (n : Nat) : Int := d >>> n

/-- The end coordinate of a draw on one axis (46_io_vector.md R255). -/
def interpolate (origin target : Word) (shift : Nat) : Int :=
  floorShr (sext12 target - sext12 origin) shift + sext12 origin

/-- The draw request of VDR (46_io_vector.md R255). -/
def State.drawRequest (s : State) : IfaceOp :=
  .emitVector (sext12 s.fromX) (sext12 s.fromY) (interpolate s.fromX s.a s.vgShiftLength.toNat)
    (interpolate s.fromY s.b s.vgShiftLength.toNat) s.vgColour

end Sys2Proof.Machine
end

