-- ==== Sys2Proof/Machine/Flags.lean ====
section
/-! DEFINITION. The templates that compute an accumulator result with its flags: LOAD, ADDOP, SUBOP, compare, AND and
SHIFTFLAGS (41_load_store.md R150, 42_arith_logic.md R170, R171, R181, R182, 44_shift.md R201). -/

namespace Sys2Proof.Machine

/-- `LOAD(v)` (41_load_store.md R150). The old accumulator goes to cmp_old and carry, its bit 0 to acc_a0. -/
def State.loadAcc (v : Word) (s : State) : State :=
  ((s.setFlags s.acc v (s.acc.getLsbD 0) s.acc.toNat).setAcc v).toAA

/-- An operation of the add family with the unmasked result `raw`: the flags take the operand, the old accumulator
and `raw`; the accumulator takes `raw mod 4096` (42_arith_logic.md R170, R171). -/
def State.aluResult (operand : Word) (raw : Nat) (s : State) : State :=
  ((s.setFlags s.acc operand (s.acc.getLsbD 0) raw).setAcc (BitVec.ofNat 12 raw)).toAA

/-- The unmasked sum (42_arith_logic.md R170). -/
def rawSum (old v : Word) : Nat := old.toNat + v.toNat

/-- The unmasked sum with the 13-bit negation of the operand (42_arith_logic.md R171). -/
def rawDifference (old v : Word) : Nat := old.toNat + ((v ^^^ 0xFFF#12).toNat + 1)

/-- `ADDOP(v)` (42_arith_logic.md R170). -/
def State.addOp (v : Word) (s : State) : State := s.aluResult v (rawSum s.acc v)

/-- `SUBOP(v)` (42_arith_logic.md R171). -/
def State.subOp (v : Word) (s : State) : State := s.aluResult v (rawDifference s.acc v)

/-- The compare of CMP: the flags of SUBOP except acc_a0, and no accumulator (42_arith_logic.md R181). -/
def State.compareOp (v : Word) (s : State) : State :=
  (s.setFlags s.acc v s.accA0 (rawDifference s.acc v)).toAA

/-- The AND of ANDR; carry takes the result (42_arith_logic.md R182). -/
def State.andOp (v : Word) (s : State) : State := s.aluResult v (s.acc &&& v).toNat

/-- `SHIFTFLAGS(op)` (44_shift.md R201). -/
def State.shiftFlags (op : Byte) (s : State) : State :=
  s.setFlags s.acc (magic op) (s.acc.getLsbD 0) ((magic op).toNat + s.acc.toNat)

/-- The table entry of a shift: a placeholder changes nothing but the dispatch state (44_shift.md R213); any other
entry sets the flags and then moves the data (R201). -/
def State.shiftEntry (op : Byte) (move : State → State) (s : State) : State :=
  if s.isPlaceholder op then s.toAA else (move (s.shiftFlags op)).toAA

/-- A single-length shift of the selected accumulator (44_shift.md R202, R203, R204). -/
def State.shiftSingle (f : Word → Word) (s : State) : State := s.setAcc (f s.acc)

/-- The arithmetic double-length right shift: the pair (B, A) on the A side, B alone on the B side
(44_shift.md R205). -/
def State.shiftPairRight (s : State) : State :=
  if s.ds.onB then s.setAB s.a (asr12 s.b) else s.setAB (pairLow s.a s.b) (asr12 s.b)

/-- The double-length left shift: both accumulators, no bit passing between them, on either side (44_shift.md R206). -/
def State.shiftBothLeft (s : State) : State := s.setAB (lsl12 s.a) (lsl12 s.b)

/-- The multiply step on the A side (43_xlt_mul.md R191): `m` is added to the shifted B when A is odd; when A is
even the sum reaches the carry only. -/
def State.mulStepA (m : Word) (s : State) : State :=
  if s.a.getLsbD 0 then
    let raw := (asr12 s.b).toNat + m.toNat
    ((s.setFlags s.b m true raw).setAB (pairLow s.a s.b) (BitVec.ofNat 12 raw)).toAA
  else
    ((s.setFlags s.a m false (s.a.toNat + m.toNat)).setAB (pairLow s.a s.b) (asr12 s.b)).toAA

/-- The multiply step on the B side (43_xlt_mul.md R192): B alone moves, A gives only its bit 0. -/
def State.mulStepB (m : Word) (s : State) : State :=
  let raw := (asr12 s.b).toNat + m.toNat
  ((s.setFlags s.b m (s.a.getLsbD 0) raw).setAB s.a
    (if s.a.getLsbD 0 then BitVec.ofNat 12 raw else asr12 s.b)).toAA

end Sys2Proof.Machine
end

