-- ==== Sys2Proof/Machine/Arith.lean ====
section
/-! DEFINITION. Add, subtract, compare and AND (42_arith_logic.md). -/

namespace Sys2Proof.Machine

/-- ADDI n, add the unshifted nibble (42_arith_logic.md R173). -/
def execAddi (n : BitVec 4) (s : State) : Host.Outcome State Fault Refusal :=
  .next (s.addOp (n.setWidth 12))

/-- ADDX imm8, add the operand byte (42_arith_logic.md R174). -/
def execAddx (imm : Byte) (s : State) : Host.Outcome State Fault Refusal :=
  .next (s.addOp (imm.setWidth 12))

/-- ADD n, add direct (42_arith_logic.md R175). -/
def execAdd (n : BitVec 4) (s : State) : Host.Outcome State Fault Refusal :=
  .next ((s.direct n).addOp (s.direct n).cellAtI)

/-- ADDR, add indirect (42_arith_logic.md R176). -/
def execAddr (s : State) : Host.Outcome State Fault Refusal :=
  .next (s.addOp s.cellAtI)

/-- SUBI n, subtract the unshifted nibble (42_arith_logic.md R177). -/
def execSubi (n : BitVec 4) (s : State) : Host.Outcome State Fault Refusal :=
  .next (s.subOp (n.setWidth 12))

/-- SUBX imm8, subtract the operand byte (42_arith_logic.md R178). -/
def execSubx (imm : Byte) (s : State) : Host.Outcome State Fault Refusal :=
  .next (s.subOp (imm.setWidth 12))

/-- SUB n, subtract direct (42_arith_logic.md R179). -/
def execSub (n : BitVec 4) (s : State) : Host.Outcome State Fault Refusal :=
  .next ((s.direct n).subOp (s.direct n).cellAtI)

/-- SUBR, subtract indirect (42_arith_logic.md R180). -/
def execSubr (s : State) : Host.Outcome State Fault Refusal :=
  .next (s.subOp s.cellAtI)

/-- CMP n, compare direct (42_arith_logic.md R181). -/
def execCmp (n : BitVec 4) (s : State) : Host.Outcome State Fault Refusal :=
  .next ((s.direct n).compareOp (s.direct n).cellAtI)

/-- ANDR, AND indirect (42_arith_logic.md R182). -/
def execAndr (s : State) : Host.Outcome State Fault Refusal :=
  .next (s.andOp s.cellAtI)

end Sys2Proof.Machine
end

