-- ==== Sys2Proof/Machine/Io.lean ====
section
/-! DEFINITION. Port input and output, colour, the vector unit, the long line test and the wait (46_io_vector.md). -/

namespace Sys2Proof.Machine

/-- INP n (46_io_vector.md R250): one port read, and the selected bit loaded. -/
def execInp (n : BitVec 4) (s : State) : Host.Outcome State Fault Refusal :=
  .next ((s.portRead (inpPort s.ds)).loadAcc (bitWord s.portAnswer (inpIndex s.ds n)))

/-- The port-bit path of OUT (46_io_vector.md R251): one read of OUTPUTS, one write of it, and CounterReset at
index 5. -/
def State.outPortBit (k : Nat) (s : State) : State :=
  ((s.portRead .outputs).portWrite .outputs (outWord s.portAnswer k (s.acc.getLsbD 0))).signalCounterReset
    (decide (k = 5))

/-- OUT n (46_io_vector.md R252): index 6 is the colour (R253), every other index the port-bit path (R251). -/
def execOut (n : BitVec 4) (s : State) : Host.Outcome State Fault Refusal :=
  .next (if bitIndex3 n = 6 then s.setColour s.colourResult else s.outPortBit (bitIndex3 n)).toIdle

/-- VIN, set vector origin: A is X and B is Y in every dispatch state (46_io_vector.md R254). -/
def execVin (s : State) : Host.Outcome State Fault Refusal :=
  .next (s.setFrom s.a s.b).toIdle

/-- VDR, draw vector: one EmitVector and no register (46_io_vector.md R255). -/
def execVdr (s : State) : Host.Outcome State Fault Refusal :=
  .next (s.perform s.drawRequest).toIdle

/-- LLT, long line test: both accumulators in every dispatch state (46_io_vector.md R257). -/
def execLlt (s : State) : Host.Outcome State Fault Refusal :=
  let r := lltLoop 256 s.a s.b
  .next (((s.setAB r.2.1 r.2.2).setShiftLength (lltCount r.1) r.1).toAA)

/-- WAI, wait for frame: the signal and the next dispatch state (46_io_vector.md R258). -/
def execWai (s : State) : Host.Outcome State Fault Refusal :=
  .next s.signalWait.toIdle

end Sys2Proof.Machine
end

