-- ==== Sys2Proof/Machine/Jump.lean ====
section
/-! DEFINITION. Jumps, the far jump and the no-operations (45_jump.md). The condition is read with the dispatch state
of the start of the instruction; the next dispatch state does not depend on it (R223). -/

namespace Sys2Proof.Machine

/-- JMP (45_jump.md R222). -/
def execJmp (s : State) : Host.Outcome State Fault Refusal :=
  .next (s.branch true s.inPageTarget).toIdle

/-- JMI (45_jump.md R227). -/
def execJmi (s : State) : Host.Outcome State Fault Refusal :=
  .next (s.branch s.minus s.inPageTarget).toIdle

/-- JEI (45_jump.md R229): two port reads, then the test. -/
def execJei (s : State) : Host.Outcome State Fault Refusal :=
  .next (s.readAxis.branch s.nearJoystick s.inPageTarget).toIdle

/-- JDR, the reserved no-operation (45_jump.md R232). -/
def execJdr (s : State) : Host.Outcome State Fault Refusal :=
  .next s

/-- JLT (45_jump.md R224). -/
def execJlt (s : State) : Host.Outcome State Fault Refusal :=
  .next (s.branch s.less s.inPageTarget).toIdle

/-- JEQ (45_jump.md R225). -/
def execJeq (s : State) : Host.Outcome State Fault Refusal :=
  .next (s.branch s.equal s.inPageTarget).toIdle

/-- JNC (45_jump.md R231). -/
def execJnc (s : State) : Host.Outcome State Fault Refusal :=
  .next (s.branch s.noCarry s.inPageTarget).toIdle

/-- JA0 (45_jump.md R230). -/
def execJa0 (s : State) : Host.Outcome State Fault Refusal :=
  .next (s.branch s.accA0 s.inPageTarget).toIdle

/-- NOP (45_jump.md R233). -/
def execNop (s : State) : Host.Outcome State Fault Refusal :=
  .next s

/-- JPPB, the far jump (45_jump.md R221). -/
def execJppb (s : State) : Host.Outcome State Fault Refusal :=
  .next (s.branch true s.farTarget).toFlip

/-- JMIB (45_jump.md R234). -/
def execJmib (s : State) : Host.Outcome State Fault Refusal :=
  .next (s.branch s.minus s.inPageTarget).toFlip

/-- JEIB (45_jump.md R235). -/
def execJeib (s : State) : Host.Outcome State Fault Refusal :=
  .next (s.readAxis.branch s.nearJoystick s.inPageTarget).toFlip

/-- JDRB (45_jump.md R236). -/
def execJdrb (s : State) : Host.Outcome State Fault Refusal :=
  .next s.toFlip

/-- JLTB (45_jump.md R237). -/
def execJltb (s : State) : Host.Outcome State Fault Refusal :=
  .next (s.branch s.less s.inPageTarget).toFlip

/-- JEQB (45_jump.md R238). -/
def execJeqb (s : State) : Host.Outcome State Fault Refusal :=
  .next (s.branch s.equal s.inPageTarget).toFlip

/-- JNCB (45_jump.md R239). -/
def execJncb (s : State) : Host.Outcome State Fault Refusal :=
  .next (s.branch s.noCarry s.inPageTarget).toFlip

/-- JA0B (45_jump.md R240). -/
def execJa0b (s : State) : Host.Outcome State Fault Refusal :=
  .next (s.branch s.accA0 s.inPageTarget).toFlip

/-- NOPB (45_jump.md R241). -/
def execNopb (s : State) : Host.Outcome State Fault Refusal :=
  .next s.toFlip

end Sys2Proof.Machine
end

