-- ==== Sys2Proof/Machine/LoadStore.lean ====
section
/-! DEFINITION. Loads, stores and control-register loads (41_load_store.md). In every meaning PC already stands past
the instruction's bytes, and `s.ds` is the dispatch state at the start of the instruction (log 12). -/

namespace Sys2Proof.Machine

/-- LDAI n, load immediate (41_load_store.md R151). -/
def execLdai (n : BitVec 4) (s : State) : Host.Outcome State Fault Refusal :=
  .next (s.loadAcc (highImmediate n))

/-- LDA n, load direct (41_load_store.md R152). -/
def execLda (n : BitVec 4) (s : State) : Host.Outcome State Fault Refusal :=
  .next ((s.direct n).loadAcc (s.direct n).cellAtI)

/-- LDAR, load indirect (41_load_store.md R153). -/
def execLdar (s : State) : Host.Outcome State Fault Refusal :=
  .next (s.loadAcc s.cellAtI)

/-- STA n, store direct (41_load_store.md R154). -/
def execSta (n : BitVec 4) (s : State) : Host.Outcome State Fault Refusal :=
  .next (((s.direct n).writeRam (directAddr n s) s.acc).toIdle)

/-- STAR, store indirect (41_load_store.md R155). -/
def execStar (s : State) : Host.Outcome State Fault Refusal :=
  .next ((s.writeRam s.i s.acc).toIdle)

/-- LDJI j, load J immediate (41_load_store.md R156). -/
def execLdji (target : Word) (s : State) : Host.Outcome State Fault Refusal :=
  .next ((s.setJ target).toIdle)

/-- LDJR, load J from RAM (41_load_store.md R157). -/
def execLdjr (s : State) : Host.Outcome State Fault Refusal :=
  .next ((s.setJ s.cellAtI).toIdle)

/-- LDP n, load page register (41_load_store.md R158). -/
def execLdp (n : BitVec 4) (s : State) : Host.Outcome State Fault Refusal :=
  .next ((s.setP n).toIdle)

/-- LDI n, load I from RAM (41_load_store.md R159). -/
def execLdi (n : BitVec 4) (s : State) : Host.Outcome State Fault Refusal :=
  .next ((s.setI (lowByte (s.readRam (directAddr n s)))).toIdle)

end Sys2Proof.Machine
end

