-- ==== Sys2Proof/Machine/Shift.lean ====
section
/-! DEFINITION. The shift family and its placeholder entries (44_shift.md). -/

namespace Sys2Proof.Machine

/-- LSRE (44_shift.md R202). -/
def execLsre (s : State) : Host.Outcome State Fault Refusal :=
  .next (s.shiftEntry 0xEB (State.shiftSingle lsr12))

/-- LSLE (44_shift.md R203). -/
def execLsle (s : State) : Host.Outcome State Fault Refusal :=
  .next (s.shiftEntry 0xEC (State.shiftSingle lsl12))

/-- ASRE (44_shift.md R204). -/
def execAsre (s : State) : Host.Outcome State Fault Refusal :=
  .next (s.shiftEntry 0xED (State.shiftSingle asr12))

/-- ASRDE (44_shift.md R205). -/
def execAsrde (s : State) : Host.Outcome State Fault Refusal :=
  .next (s.shiftEntry 0xEE State.shiftPairRight)

/-- LSLDE (44_shift.md R206). -/
def execLslde (s : State) : Host.Outcome State Fault Refusal :=
  .next (s.shiftEntry 0xEF State.shiftBothLeft)

/-- LSRF (44_shift.md R207). -/
def execLsrf (s : State) : Host.Outcome State Fault Refusal :=
  .next (s.shiftEntry 0xFB (State.shiftSingle lsr12))

/-- LSLF (44_shift.md R208). -/
def execLslf (s : State) : Host.Outcome State Fault Refusal :=
  .next (s.shiftEntry 0xFC (State.shiftSingle lsl12))

/-- ASRF (44_shift.md R209). -/
def execAsrf (s : State) : Host.Outcome State Fault Refusal :=
  .next (s.shiftEntry 0xFD (State.shiftSingle asr12))

/-- ASRDF (44_shift.md R210). -/
def execAsrdf (s : State) : Host.Outcome State Fault Refusal :=
  .next (s.shiftEntry 0xFE State.shiftPairRight)

/-- LSLDF (44_shift.md R211). -/
def execLsldf (s : State) : Host.Outcome State Fault Refusal :=
  .next (s.shiftEntry 0xFF State.shiftBothLeft)

end Sys2Proof.Machine
end

