-- ==== Sys2Proof/Machine/XltMul.lean ====
section
/-! DEFINITION. Translate through program space, and the multiply step (43_xlt_mul.md). -/

namespace Sys2Proof.Machine

/-- XLT (43_xlt_mul.md R190): the program byte at the opcode's page plus the accumulator is loaded, zero-extended,
and PC skips one byte, which is not fetched. -/
def execXlt (s : State) : Host.Outcome State Fault Refusal :=
  .next (((s.fetchAt s.xltAddr).loadAcc ((s.programByte s.xltAddr).setWidth 12)).advance)

/-- MUL, the multiply step: one data path on the A side (43_xlt_mul.md R191), another on the B side (R192). -/
def execMul (s : State) : Host.Outcome State Fault Refusal :=
  .next (if s.ds.onB then s.mulStepB s.cellAtI else s.mulStepA s.cellAtI)

end Sys2Proof.Machine
end

