-- ==== Sys2Proof/Syntax.lean ====
section
/-! DEFINITION. The instructions: one constructor per row of spec/opcode_table.json (30_encoding.md R95 to R97). -/

namespace Sys2Proof

/-- The field `v` of rows 0xE and 0xF (30_encoding.md R94): which of the two bytes of an alias pair
(R98) the instruction was written with. No meaning reads it. -/
inductive Form where
  | e
  | f
  deriving DecidableEq, Repr

/-- The 55 instructions (30_encoding.md R100), in the order of spec/opcode_table.json. -/
inductive Instr where
  | ldai (n : BitVec 4)
  | inp (n : BitVec 4)
  | addx (imm : Byte)
  | addi (n : BitVec 4)
  | subx (imm : Byte)
  | subi (n : BitVec 4)
  | ldji (target : Word)
  | jppb
  | jmib
  | jeib
  | jdrb
  | jltb
  | jeqb
  | jncb
  | ja0b
  | nopb
  | jmp
  | jmi
  | jei
  | jdr
  | jlt
  | jeq
  | jnc
  | ja0
  | nop
  | add (n : BitVec 4)
  | sub (n : BitVec 4)
  | ldp (n : BitVec 4)
  | out (n : BitVec 4)
  | lda (n : BitVec 4)
  | cmp (n : BitVec 4)
  | ldi (n : BitVec 4)
  | sta (n : BitVec 4)
  | vdr
  | vin
  | ldjr (v : Form)
  | xlt (v : Form)
  | mul (v : Form)
  | llt (v : Form)
  | wai (v : Form)
  | star (v : Form)
  | addr (v : Form)
  | subr (v : Form)
  | andr (v : Form)
  | ldar (v : Form)
  | lsre
  | lsle
  | asre
  | asrde
  | lslde
  | lsrf
  | lslf
  | asrf
  | asrdf
  | lsldf
  deriving DecidableEq, Repr

end Sys2Proof
end

