-- ==== Sys2Proof/Machine/Dispatch.lean ====
section
/-! DEFINITION. The dispatch: one meaning per instruction (40_dispatch.md R122). -/

namespace Sys2Proof.Machine

def exec (i : Instr) (s : State) : Host.Outcome State Fault Refusal :=
  match i with
  | .ldai n => Sys2Proof.Machine.execLdai n s
  | .inp n => Sys2Proof.Machine.execInp n s
  | .addx imm => Sys2Proof.Machine.execAddx imm s
  | .addi n => Sys2Proof.Machine.execAddi n s
  | .subx imm => Sys2Proof.Machine.execSubx imm s
  | .subi n => Sys2Proof.Machine.execSubi n s
  | .ldji target => Sys2Proof.Machine.execLdji target s
  | .jppb => Sys2Proof.Machine.execJppb s
  | .jmib => Sys2Proof.Machine.execJmib s
  | .jeib => Sys2Proof.Machine.execJeib s
  | .jdrb => Sys2Proof.Machine.execJdrb s
  | .jltb => Sys2Proof.Machine.execJltb s
  | .jeqb => Sys2Proof.Machine.execJeqb s
  | .jncb => Sys2Proof.Machine.execJncb s
  | .ja0b => Sys2Proof.Machine.execJa0b s
  | .nopb => Sys2Proof.Machine.execNopb s
  | .jmp => Sys2Proof.Machine.execJmp s
  | .jmi => Sys2Proof.Machine.execJmi s
  | .jei => Sys2Proof.Machine.execJei s
  | .jdr => Sys2Proof.Machine.execJdr s
  | .jlt => Sys2Proof.Machine.execJlt s
  | .jeq => Sys2Proof.Machine.execJeq s
  | .jnc => Sys2Proof.Machine.execJnc s
  | .ja0 => Sys2Proof.Machine.execJa0 s
  | .nop => Sys2Proof.Machine.execNop s
  | .add n => Sys2Proof.Machine.execAdd n s
  | .sub n => Sys2Proof.Machine.execSub n s
  | .ldp n => Sys2Proof.Machine.execLdp n s
  | .out n => Sys2Proof.Machine.execOut n s
  | .lda n => Sys2Proof.Machine.execLda n s
  | .cmp n => Sys2Proof.Machine.execCmp n s
  | .ldi n => Sys2Proof.Machine.execLdi n s
  | .sta n => Sys2Proof.Machine.execSta n s
  | .vdr => Sys2Proof.Machine.execVdr s
  | .vin => Sys2Proof.Machine.execVin s
  | .ldjr _ => Sys2Proof.Machine.execLdjr s
  | .xlt _ => Sys2Proof.Machine.execXlt s
  | .mul _ => Sys2Proof.Machine.execMul s
  | .llt _ => Sys2Proof.Machine.execLlt s
  | .wai _ => Sys2Proof.Machine.execWai s
  | .star _ => Sys2Proof.Machine.execStar s
  | .addr _ => Sys2Proof.Machine.execAddr s
  | .subr _ => Sys2Proof.Machine.execSubr s
  | .andr _ => Sys2Proof.Machine.execAndr s
  | .ldar _ => Sys2Proof.Machine.execLdar s
  | .lsre => Sys2Proof.Machine.execLsre s
  | .lsle => Sys2Proof.Machine.execLsle s
  | .asre => Sys2Proof.Machine.execAsre s
  | .asrde => Sys2Proof.Machine.execAsrde s
  | .lslde => Sys2Proof.Machine.execLslde s
  | .lsrf => Sys2Proof.Machine.execLsrf s
  | .lslf => Sys2Proof.Machine.execLslf s
  | .asrf => Sys2Proof.Machine.execAsrf s
  | .asrdf => Sys2Proof.Machine.execAsrdf s
  | .lsldf => Sys2Proof.Machine.execLsldf s

end Sys2Proof.Machine
end

