-- ==== Sys2Proof/WellFormed.lean ====
section
/-! DEFINITION. Which terms of `Instr` are instructions: the checks that the operand widths do not already make. -/

namespace Sys2Proof

/-- The nibble of ADDI and SUBI is 1 to 15: nibble 0 of groups 2 and 3 is ADDX and SUBX
(42_arith_logic.md R173, R177). Every other operand is in range by its width. -/
def Instr.wellFormed : Instr → Bool
  | .addi n => decide (n ≠ 0)
  | .subi n => decide (n ≠ 0)
  | .ldai _ | .inp _ | .addx _ | .subx _ | .ldji _ | .jppb | .jmib | .jeib | .jdrb | .jltb | .jeqb | .jncb
  | .ja0b | .nopb | .jmp | .jmi | .jei | .jdr | .jlt | .jeq | .jnc | .ja0 | .nop | .add _ | .sub _ | .ldp _
  | .out _ | .lda _ | .cmp _ | .ldi _ | .sta _ | .vdr | .vin | .ldjr _ | .xlt _ | .mul _ | .llt _ | .wai _
  | .star _ | .addr _ | .subr _ | .andr _ | .ldar _ | .lsre | .lsle | .asre | .asrde | .lslde | .lsrf
  | .lslf | .asrf | .asrdf | .lsldf => true

/-- Whether the configured polarity gives the instruction its opcode: 0x51 and 0x59 are JMIB and JMI under
`JMI_MODE`, JEIB and JEI under `JEI_MODE` (40_dispatch.md R131). -/
def Instr.availableUnder (pol : JumpPolarity) : Instr → Bool
  | .jmib | .jmi => decide (pol = .jmiMode)
  | .jeib | .jei => decide (pol = .jeiMode)
  | .ldai _ | .inp _ | .addx _ | .addi _ | .subx _ | .subi _ | .ldji _ | .jppb | .jdrb | .jltb | .jeqb | .jncb
  | .ja0b | .nopb | .jmp | .jdr | .jlt | .jeq | .jnc | .ja0 | .nop | .add _ | .sub _ | .ldp _
  | .out _ | .lda _ | .cmp _ | .ldi _ | .sta _ | .vdr | .vin | .ldjr _ | .xlt _ | .mul _ | .llt _ | .wai _
  | .star _ | .addr _ | .subr _ | .andr _ | .ldar _ | .lsre | .lsle | .asre | .asrde | .lslde | .lsrf
  | .lslf | .asrf | .asrdf | .lsldf => true

end Sys2Proof
end

