-- ==== Sys2Proof/Decode.lean ====
section
/-! DEFINITION. Decoding and encoding (30_encoding.md). All 256 opcode bytes decode in every configuration
(R102, R130); only a byte list that ends too early is rejected, by name. -/

namespace Sys2Proof

/-- Bits 3..0 of a byte: field `n` of format N, `fn` of format S (30_encoding.md R91, R94). -/
def lowNibble (x : Byte) : BitVec 4 := x.extractLsb' 0 4

/-- Bits 7..4 of a byte: field `grp` (30_encoding.md R91). -/
def highNibble (x : Byte) : BitVec 4 := x.extractLsb' 4 4

/-- The length of an instruction, from its opcode byte alone (30_encoding.md R103). -/
def opLength (op : Byte) : Nat :=
  if op = 0x20#8 ∨ op = 0x30#8 ∨ highNibble op = 0x4#4 then 2 else 1

/-- The J immediate of LDJI from the opcode and the operand byte (30_encoding.md R93). -/
def ldjiTarget (op operand : Byte) : Word := lowNibble operand ++ highNibble operand ++ lowNibble op

/-- Row 0x5, the jumps (30_encoding.md R96), with the jump-polarity redirector (40_dispatch.md R131). -/
def decodeJump (pol : JumpPolarity) (n : BitVec 4) : Instr :=
  match n.toNat with
  | 0x0 => .jppb
  | 0x1 => match pol with | .jmiMode => .jmib | .jeiMode => .jeib
  | 0x2 => .jdrb
  | 0x3 => .jltb
  | 0x4 => .jeqb
  | 0x5 => .jncb
  | 0x6 => .ja0b
  | 0x7 => .nopb
  | 0x8 => .jmp
  | 0x9 => match pol with | .jmiMode => .jmi | .jeiMode => .jei
  | 0xA => .jdr
  | 0xB => .jlt
  | 0xC => .jeq
  | 0xD => .jnc
  | 0xE => .ja0
  | _ => .nop

/-- Row 0xE (30_encoding.md R97). -/
def decodeRowE (fn : BitVec 4) : Instr :=
  match fn.toNat with
  | 0x0 => .vdr
  | 0x1 => .ldjr .e
  | 0x2 => .xlt .e
  | 0x3 => .mul .e
  | 0x4 => .llt .e
  | 0x5 => .wai .e
  | 0x6 => .star .e
  | 0x7 => .addr .e
  | 0x8 => .subr .e
  | 0x9 => .andr .e
  | 0xA => .ldar .e
  | 0xB => .lsre
  | 0xC => .lsle
  | 0xD => .asre
  | 0xE => .asrde
  | _ => .lslde

/-- Row 0xF (30_encoding.md R97). -/
def decodeRowF (fn : BitVec 4) : Instr :=
  match fn.toNat with
  | 0x0 => .vin
  | 0x1 => .ldjr .f
  | 0x2 => .xlt .f
  | 0x3 => .mul .f
  | 0x4 => .llt .f
  | 0x5 => .wai .f
  | 0x6 => .star .f
  | 0x7 => .addr .f
  | 0x8 => .subr .f
  | 0x9 => .andr .f
  | 0xA => .ldar .f
  | 0xB => .lsrf
  | 0xC => .lslf
  | 0xD => .asrf
  | 0xE => .asrdf
  | _ => .lsldf

/-- The instruction of an opcode byte and the byte after it (30_encoding.md R95); the second byte is read by the
two-byte forms only. Total: every byte is an instruction (R102). -/
def decodeOp (pol : JumpPolarity) (op operand : Byte) : Instr :=
  let n := lowNibble op
  match (highNibble op).toNat with
  | 0x0 => .ldai n
  | 0x1 => .inp n
  | 0x2 => if n = 0 then .addx operand else .addi n
  | 0x3 => if n = 0 then .subx operand else .subi n
  | 0x4 => .ldji (ldjiTarget op operand)
  | 0x5 => decodeJump pol n
  | 0x6 => .add n
  | 0x7 => .sub n
  | 0x8 => .ldp n
  | 0x9 => .out n
  | 0xA => .lda n
  | 0xB => .cmp n
  | 0xC => .ldi n
  | 0xD => .sta n
  | 0xE => decodeRowE n
  | _ => decodeRowF n

/-- Why a byte list is no instruction: it ends too early. The machine itself never meets this, since `Fetch`
answers at every address (20_memory.md R61). -/
inductive DecodeError where
  /-- The list is empty. Safe: raised for no byte of the machine. -/
  | noOpcode
  /-- A two-byte form without its operand byte. Safe: raised for no byte of the machine. -/
  | noOperand
  deriving DecidableEq, Repr

/-- The instruction at the head of a byte list, and the rest of the list. -/
def decode (pol : JumpPolarity) : List Byte → Except DecodeError (Instr × List Byte)
  | [] => .error .noOpcode
  | op :: rest =>
    if opLength op = 1 then .ok (decodeOp pol op 0, rest)
    else
      match rest with
      | [] => .error .noOperand
      | operand :: rest' => .ok (decodeOp pol op operand, rest')

/-- One opcode byte: group and nibble (30_encoding.md R91, R94). -/
def opByte (grp n : BitVec 4) : Byte := grp ++ n

/-- The group nibble of an alias form (30_encoding.md R94, R98). -/
def Form.group : Form → BitVec 4
  | .e => 0xE#4
  | .f => 0xF#4

/-- The two bytes of LDJI (30_encoding.md R93). -/
def encodeLdji (target : Word) : List Byte :=
  [opByte 0x4 (target.extractLsb' 0 4), opByte (target.extractLsb' 4 4) (target.extractLsb' 8 4)]

/-- The bytes of an instruction in address order (30_encoding.md R90 to R97). -/
def encode : Instr → List Byte
  | .ldai n => [opByte 0x0 n]
  | .inp n => [opByte 0x1 n]
  | .addx imm => [0x20, imm]
  | .addi n => [opByte 0x2 n]
  | .subx imm => [0x30, imm]
  | .subi n => [opByte 0x3 n]
  | .ldji target => encodeLdji target
  | .jppb => [0x50]
  | .jmib => [0x51]
  | .jeib => [0x51]
  | .jdrb => [0x52]
  | .jltb => [0x53]
  | .jeqb => [0x54]
  | .jncb => [0x55]
  | .ja0b => [0x56]
  | .nopb => [0x57]
  | .jmp => [0x58]
  | .jmi => [0x59]
  | .jei => [0x59]
  | .jdr => [0x5A]
  | .jlt => [0x5B]
  | .jeq => [0x5C]
  | .jnc => [0x5D]
  | .ja0 => [0x5E]
  | .nop => [0x5F]
  | .add n => [opByte 0x6 n]
  | .sub n => [opByte 0x7 n]
  | .ldp n => [opByte 0x8 n]
  | .out n => [opByte 0x9 n]
  | .lda n => [opByte 0xA n]
  | .cmp n => [opByte 0xB n]
  | .ldi n => [opByte 0xC n]
  | .sta n => [opByte 0xD n]
  | .vdr => [0xE0]
  | .vin => [0xF0]
  | .ldjr v => [opByte v.group 0x1]
  | .xlt v => [opByte v.group 0x2]
  | .mul v => [opByte v.group 0x3]
  | .llt v => [opByte v.group 0x4]
  | .wai v => [opByte v.group 0x5]
  | .star v => [opByte v.group 0x6]
  | .addr v => [opByte v.group 0x7]
  | .subr v => [opByte v.group 0x8]
  | .andr v => [opByte v.group 0x9]
  | .ldar v => [opByte v.group 0xA]
  | .lsre => [0xEB]
  | .lsle => [0xEC]
  | .asre => [0xED]
  | .asrde => [0xEE]
  | .lslde => [0xEF]
  | .lsrf => [0xFB]
  | .lslf => [0xFC]
  | .asrf => [0xFD]
  | .asrdf => [0xFE]
  | .lsldf => [0xFF]

/-- The first two bytes of an instruction whose bits are `w`, as spec/opcode_table.json numbers them: bits 7..0
are the opcode byte, bits 15..8 the operand byte; every bit from `nbits` up is 0. -/
def tableWordBytes (nbits w : Nat) : Byte × Byte :=
  let x : BitVec 16 := (BitVec.ofNat nbits w).setWidth 16
  (x.extractLsb' 0 8, x.extractLsb' 8 8)

/-- The instruction the decoder reads from a table word, under the configuration the machine is reset with
(log 6: 0x51 and 0x59 are then JMIB and JMI). Fewer than 8 bits hold no opcode byte. -/
def decodeTableWord (nbits w : Nat) : Option Instr :=
  if nbits < 8 then none
  else
    match decode Config.resetPolarity [(tableWordBytes nbits w).1, (tableWordBytes nbits w).2] with
    | .ok (i, _) => some i
    | .error _ => none

end Sys2Proof
end

