-- ==== Sys2Proof/Machine/Fetch.lean ====
section
/-! DEFINITION. Fetching an instruction's bytes (40_dispatch.md R121, 30_encoding.md R90, R103). -/

namespace Sys2Proof.Machine

/-- The opcode byte at PC. -/
def State.opByteAtPc (s : State) : Byte := s.programByte s.pc

/-- The byte after the opcode byte, modulo 65536: the operand of a two-byte form (30_encoding.md R90). -/
def State.operandAtPc (s : State) : Byte := s.programByte (s.pc + 1)

/-- Fetch the byte at PC and advance PC (40_dispatch.md R121). -/
def State.fetchPc (s : State) : State := (s.fetchAt s.pc).advance

/-- The state after the bytes of an instruction of `len` bytes were fetched: PC past them (10_state.md R22). -/
def State.fetched : Nat → State → State
  | 0, s => s
  | len + 1, s => State.fetched len s.fetchPc

/-- The instruction at PC, under the configured jump polarity (40_dispatch.md R131). The operand byte is looked at
by two-byte forms alone. -/
def State.instrAtPc (s : State) : Instr := decodeOp s.jumpPolarity s.opByteAtPc s.operandAtPc

/-- The length of the instruction at PC. -/
def State.lengthAtPc (s : State) : Nat := opLength s.opByteAtPc

end Sys2Proof.Machine
end

