-- ==== Sys2Proof/Machine/Step.lean ====
section
/-! DEFINITION. One step: exactly one instruction (40_dispatch.md R120 to R123). -/

namespace Sys2Proof.Machine

/-- Outputs of the previous step cleared (10_state.md R36), the instruction's bytes fetched and PC past them (R121),
then its meaning. Total: no opcode byte is refused (R130). -/
def step (s : State) : Host.Outcome State Fault Refusal :=
  exec s.instrAtPc (s.clearOut.fetched s.lengthAtPc)

/-- The instruction of a table word, `nbits` bits of `w`, stored in program storage where the next step fetches: its
first byte at PC, the byte after it at PC + 1 (log 1). -/
def State.withFetchWord (s : State) (nbits w : Nat) : State :=
  (s.storeProgram s.pc (tableWordBytes nbits w).1).storeProgram (s.pc + 1) (tableWordBytes nbits w).2

end Sys2Proof.Machine
end

