-- ==== Sys2Proof/Machine/HostOps.lean ====
section
/-! DEFINITION. The operations the core offers its host between steps (70_reset_and_hazards.md R310 to R316); `run` is
in Machine/Run.lean. An operation that the spec refuses answers `none` and so changes nothing (log 15). -/

namespace Sys2Proof

/-- The snapshot code of a dispatch state (10_state.md R34). -/
def DispatchState.code : DispatchState → Nat
  | .a => 0
  | .aa => 1
  | .b => 2
  | .bb => 3

/-- The dispatch state of a number, taken modulo 4 (70_reset_and_hazards.md R313). -/
def DispatchState.ofCode (n : Nat) : DispatchState :=
  match n % 4 with
  | 0 => .a
  | 1 => .aa
  | 2 => .b
  | _ => .bb

/-- The member of JumpPolarity with a name (00_scope.md R5). -/
def JumpPolarity.ofName (name : String) : Option JumpPolarity :=
  if name = "JMI_MODE" then some .jmiMode else if name = "JEI_MODE" then some .jeiMode else none

/-- The member of AddressSpaceSize with a name (00_scope.md R5). -/
def AddressSpaceSize.ofName (name : String) : Option AddressSpaceSize :=
  if name = "MSIZE_4K" then some .msize4K
  else if name = "MSIZE_8K" then some .msize8K
  else if name = "MSIZE_16K" then some .msize16K
  else if name = "MSIZE_32K" then some .msize32K
  else none

/-- The member of MonitorMode with a name (00_scope.md R5). -/
def MonitorMode.ofName (name : String) : Option MonitorMode :=
  if name = "BILEVEL" then some .bilevel
  else if name = "LEVEL16" then some .level16
  else if name = "LEVEL64" then some .level64
  else if name = "COLOR" then some .color
  else none

end Sys2Proof

namespace Sys2Proof.Machine

/-- `reset()` (70_reset_and_hazards.md R310, R300): every snapshot element as after reset, no output pending; the
configuration, the parameters, program storage and the ports are not touched (R302). -/
def State.hostReset (s : State) : State :=
  { State.reset with
    jumpPolarity := s.jumpPolarity
    addressSpaceSize := s.addressSpaceSize
    monitorMode := s.monitorMode
    placeholders := s.placeholders
    colour64 := s.colour64
    colourGame := s.colourGame
    prog := s.prog
    portIn := s.portIn
    portReads := s.portReads }

/-- The snapshot of 10_state.md R39, as the numbers the host sees; `ram` lists the cells from 0 up. -/
structure Snapshot where
  pc : Nat
  a : Nat
  b : Nat
  i : Nat
  j : Nat
  p : Nat
  t : Nat
  fromX : Nat
  fromY : Nat
  vgColour : Nat
  vgShiftLength : Nat
  cmpOld : Nat
  cmpNew : Nat
  accA0 : Nat
  carry : Nat
  ds : Nat
  ram : List Nat
  deriving DecidableEq, Repr

/-- `get_state()` (70_reset_and_hazards.md R312). -/
def State.getState (s : State) : Snapshot where
  pc := s.pc.toNat
  a := s.a.toNat
  b := s.b.toNat
  i := s.i.toNat
  j := s.j.toNat
  p := s.p.toNat
  t := s.t.toNat
  fromX := s.fromX.toNat
  fromY := s.fromY.toNat
  vgColour := s.vgColour.toNat
  vgShiftLength := s.vgShiftLength.toNat
  cmpOld := s.cmpOld.toNat
  cmpNew := s.cmpNew.toNat
  accA0 := s.accA0.toNat
  carry := s.carry.toNat
  ds := s.ds.code
  ram := (List.range 256).map fun k => (s.readRam (BitVec.ofNat 8 k)).toNat

/-- RAM from the cells of a snapshot, from address `addr` up, each reduced to 12 bits. -/
def ramOfCells : Nat → List Nat → Ram
  | _, [] => []
  | addr, c :: rest =>
    if BitVec.ofNat 12 c = 0 then ramOfCells (addr + 1) rest
    else (addr, BitVec.ofNat 12 c) :: ramOfCells (addr + 1) rest

/-- `set_state(snapshot)` (70_reset_and_hazards.md R313): every element reduced to its width, nothing else changed. -/
def State.setState (x : Snapshot) (s : State) : State :=
  { s with
    pc := BitVec.ofNat 16 x.pc
    a := BitVec.ofNat 12 x.a
    b := BitVec.ofNat 12 x.b
    i := BitVec.ofNat 8 x.i
    j := BitVec.ofNat 12 x.j
    p := BitVec.ofNat 4 x.p
    t := BitVec.ofNat 12 x.t
    fromX := BitVec.ofNat 12 x.fromX
    fromY := BitVec.ofNat 12 x.fromY
    vgColour := BitVec.ofNat 8 x.vgColour
    vgShiftLength := BitVec.ofNat 8 x.vgShiftLength
    cmpOld := BitVec.ofNat 12 x.cmpOld
    cmpNew := BitVec.ofNat 12 x.cmpNew
    accA0 := decide (x.accA0 % 2 = 1)
    carry := BitVec.ofNat 16 x.carry
    ds := DispatchState.ofCode x.ds
    ram := ramOfCells 0 (x.ram.take 256) }

/-- `get_register(id)` (70_reset_and_hazards.md R314); `none` for an id outside its table. -/
def State.getRegister (id : Nat) (s : State) : Option Nat :=
  match id with
  | 0 => some s.pc.toNat
  | 1 => some s.a.toNat
  | 2 => some s.b.toNat
  | 3 => some s.i.toNat
  | 4 => some s.j.toNat
  | 5 => some s.p.toNat
  | 6 => some s.t.toNat
  | 7 => some s.fromX.toNat
  | 8 => some s.fromY.toNat
  | 9 => some s.vgColour.toNat
  | 10 => some s.vgShiftLength.toNat
  | 11 => some s.cmpOld.toNat
  | 12 => some s.cmpNew.toNat
  | 13 => some s.accA0.toNat
  | 14 => some s.carry.toNat
  | 15 => some s.ds.code
  | _ => if 0x100 ≤ id ∧ id < 0x200 then some (s.readRam (BitVec.ofNat 8 (id - 0x100))).toNat else none

/-- `set_register(id, value)` (70_reset_and_hazards.md R315): the named register takes `value mod 2^width`, and nothing
else changes; `none` for an id outside the table. -/
def State.setRegister (id value : Nat) (s : State) : Option State :=
  match id with
  | 0 => some { s with pc := BitVec.ofNat 16 value }
  | 1 => some { s with a := BitVec.ofNat 12 value }
  | 2 => some { s with b := BitVec.ofNat 12 value }
  | 3 => some { s with i := BitVec.ofNat 8 value }
  | 4 => some { s with j := BitVec.ofNat 12 value }
  | 5 => some { s with p := BitVec.ofNat 4 value }
  | 6 => some { s with t := BitVec.ofNat 12 value }
  | 7 => some { s with fromX := BitVec.ofNat 12 value }
  | 8 => some { s with fromY := BitVec.ofNat 12 value }
  | 9 => some { s with vgColour := BitVec.ofNat 8 value }
  | 10 => some { s with vgShiftLength := BitVec.ofNat 8 value }
  | 11 => some { s with cmpOld := BitVec.ofNat 12 value }
  | 12 => some { s with cmpNew := BitVec.ofNat 12 value }
  | 13 => some { s with accA0 := decide (value % 2 = 1) }
  | 14 => some { s with carry := BitVec.ofNat 16 value }
  | 15 => some { s with ds := DispatchState.ofCode value }
  | _ =>
    if 0x100 ≤ id ∧ id < 0x200 then some (s.writeRam (BitVec.ofNat 8 (id - 0x100)) (BitVec.ofNat 12 value))
    else none

/-- `configure` (70_reset_and_hazards.md R316), its arguments by member name: refused as a whole when one of them
names no member. -/
def State.configure (polarity size monitor : String) (s : State) : Option State :=
  match JumpPolarity.ofName polarity, AddressSpaceSize.ofName size, MonitorMode.ofName monitor with
  | some jp, some sz, some mm => some { s with jumpPolarity := jp, addressSpaceSize := sz, monitorMode := mm }
  | _, _, _ => none

/-- The host readies the answer of one more PortRead (93_implementation_defined.md U9, log 3). -/
def State.offerPort (w : PortWord) (s : State) : State := { s with portIn := s.portIn ++ [w] }

end Sys2Proof.Machine
end

