-- ==== Sys2Proof/Machine/Run.lean ====
section
/-! DEFINITION. The run loop and its cycle accounting (40_dispatch.md R128), and the host's `run`
(70_reset_and_hazards.md R311). Timing only: no meaning reads it. -/

namespace Sys2Proof.Machine

/-- What one step charges (40_dispatch.md R128): its opcode's base cost, 2 for a taken jump other than the far jump,
the LLT steps, and the wait penalty. -/
def stepCharge (c : CostModel) (op : Byte) (o : StepOut) : Nat :=
  c.cost op + (if o.taken && decide (op ≠ 0x50#8) then 2 else 0) + c.lltStepCost * o.lltSteps +
    (if o.waitRequest then c.waitPenalty else 0)

/-- What a run ends with: the state, the remaining budget, and the outputs of its steps in program order. -/
structure RunResult where
  state : State
  remaining : Int
  outs : List StepOut

/-- The result of a run with one more step before it. -/
def RunResult.after (o : StepOut) (r : RunResult) : RunResult := { r with outs := o :: r.outs }

/-- One step on a budget, whatever it charges. -/
def runOne (c : CostModel) (budget : Int) (s : State) : Option RunResult :=
  match step s with
  | .next t => some ⟨t, budget - stepCharge c s.opByteAtPc t.out, [t.out]⟩
  | .fault _ => none
  | .refused _ => none

/-- The loop of 40_dispatch.md R128 with at most `fuel` steps; `none` when they do not use up the budget
(70_reset_and_hazards.md R331 says when a run does not return; log 9). -/
def runLoop (c : CostModel) : Nat → Int → State → Option RunResult
  | 0, remaining, s => if remaining ≤ 0 then some ⟨s, remaining, []⟩ else none
  | fuel + 1, remaining, s =>
    if remaining ≤ 0 then some ⟨s, remaining, []⟩
    else
      match step s with
      | .next t =>
        (runLoop c fuel (remaining - stepCharge c s.opByteAtPc t.out) t).map (RunResult.after t.out)
      | .fault _ => none
      | .refused _ => none

/-- `run(cycle_budget)` (70_reset_and_hazards.md R311): the loop of R128 within `fuel` steps, but a budget of 1 executes
exactly one instruction whatever its cost (R311, 60_exceptions.md R279), also one that charges nothing (log 10). -/
def run (c : CostModel) (fuel : Nat) (budget : Int) (s : State) : Option RunResult :=
  if budget = 1 then runOne c budget s else runLoop c fuel budget s

/-- `cycles_consumed`, what `run` returns (40_dispatch.md R128). -/
def RunResult.consumed (budget : Int) (r : RunResult) : Int := budget - r.remaining

/-- Whether an interface operation is observable output: a port write or a draw request (46_io_vector.md R256). -/
def IfaceOp.observable : IfaceOp → Bool
  | .portWrite _ _ | .emitVector _ _ _ _ _ => true
  | .fetch _ | .portRead _ _ => false

/-- The observable output of a run, in program order (46_io_vector.md R256). -/
def RunResult.observed (r : RunResult) : List IfaceOp := (r.outs.flatMap StepOut.ops).filter IfaceOp.observable

end Sys2Proof.Machine
end

