-- ==== Sys2Proof/Safety.lean ====
section
/-! DEFINITION. The terms that the claims are made in: which fields a step may change, the next-state classes, what a
safe run is, and the invariants. No meaning uses anything of this file. -/

namespace Sys2Proof

/-- The four next-state classes (40_dispatch.md R125). -/
inductive NextClass where
  | accumulator
  | idle
  | keep
  | flip
  deriving DecidableEq, Repr

/-- The class of an instruction, as the table of 40_dispatch.md R125 lists it. -/
def Instr.nextClass : Instr → NextClass
  | .ldai _ | .lda _ | .ldar _ | .inp _ | .addi _ | .addx _ | .add _ | .addr _ | .subi _ | .subx _ | .sub _ | .subr _
  | .cmp _ | .andr _ | .xlt _ | .mul _ | .llt _ | .lsre | .lsle | .asre | .asrde | .lslde | .lsrf | .lslf | .asrf
  | .asrdf | .lsldf => .accumulator
  | .ldji _ | .ldjr _ | .ldp _ | .ldi _ | .sta _ | .star _ | .out _ | .vin | .vdr | .wai _ | .jmp | .jmi | .jei | .jlt
  | .jeq | .jnc | .ja0 => .idle
  | .nop | .jdr => .keep
  | .jppb | .jmib | .jeib | .jdrb | .jltb | .jeqb | .jncb | .ja0b | .nopb => .flip

/-- The transition table of 40_dispatch.md R125, entry by entry. -/
def NextClass.next : NextClass → DispatchState → DispatchState
  | .accumulator, _ => .aa
  | .idle, .a => .a
  | .idle, .aa => .a
  | .idle, .b => .b
  | .idle, .bb => .b
  | .keep, d => d
  | .flip, .a => .b
  | .flip, .aa => .bb
  | .flip, .b => .b
  | .flip, .bb => .b

end Sys2Proof

namespace Sys2Proof.Machine

/-- The parts of the state that a claim can say are unchanged: every field of `State`, `out` by its own fields. -/
inductive Field where
  | pc
  | a
  | b
  | i
  | j
  | p
  | t
  | fromX
  | fromY
  | vgColour
  | vgShiftLength
  | cmpOld
  | cmpNew
  | accA0
  | carry
  | ds
  | ram
  | jumpPolarity
  | addressSpaceSize
  | monitorMode
  | placeholders
  | colour64
  | colourGame
  | prog
  | portIn
  | portReads
  | ops
  | counterReset
  | waitRequest
  | taken
  | lltSteps
  deriving DecidableEq, Repr

/-- The field reads the same in both states. RAM and program storage are compared through the reads of one cell. -/
def Field.Same : Field → State → State → Prop
  | .pc, before, after => after.pc = before.pc
  | .a, before, after => after.a = before.a
  | .b, before, after => after.b = before.b
  | .i, before, after => after.i = before.i
  | .j, before, after => after.j = before.j
  | .p, before, after => after.p = before.p
  | .t, before, after => after.t = before.t
  | .fromX, before, after => after.fromX = before.fromX
  | .fromY, before, after => after.fromY = before.fromY
  | .vgColour, before, after => after.vgColour = before.vgColour
  | .vgShiftLength, before, after => after.vgShiftLength = before.vgShiftLength
  | .cmpOld, before, after => after.cmpOld = before.cmpOld
  | .cmpNew, before, after => after.cmpNew = before.cmpNew
  | .accA0, before, after => after.accA0 = before.accA0
  | .carry, before, after => after.carry = before.carry
  | .ds, before, after => after.ds = before.ds
  | .ram, before, after => ∀ ea, after.readRam ea = before.readRam ea
  | .jumpPolarity, before, after => after.jumpPolarity = before.jumpPolarity
  | .addressSpaceSize, before, after => after.addressSpaceSize = before.addressSpaceSize
  | .monitorMode, before, after => after.monitorMode = before.monitorMode
  | .placeholders, before, after => after.placeholders = before.placeholders
  | .colour64, before, after => after.colour64 = before.colour64
  | .colourGame, before, after => after.colourGame = before.colourGame
  | .prog, before, after => ∀ addr, after.programByte addr = before.programByte addr
  | .portIn, before, after => after.portIn = before.portIn
  | .portReads, before, after => after.portReads = before.portReads
  | .ops, before, after => after.out.ops = before.out.ops
  | .counterReset, before, after => after.out.counterReset = before.out.counterReset
  | .waitRequest, before, after => after.out.waitRequest = before.out.waitRequest
  | .taken, before, after => after.out.taken = before.out.taken
  | .lltSteps, before, after => after.out.lltSteps = before.out.lltSteps

/-- The parts of the state that a snapshot carries (10_state.md R39). -/
def snapshotFields : List Field :=
  [.pc, .a, .b, .i, .j, .p, .t, .fromX, .fromY, .vgColour, .vgShiftLength, .cmpOld, .cmpNew, .accA0, .carry, .ds, .ram]

/-- The frame: from `s` to `t`, no field outside `changed` changes. -/
def ChangesOnly (changed : List Field) (s t : State) : Prop := ∀ f, f ∉ changed → f.Same s t

/-- `exec` answers a next state for the instruction, and that state is as `P` says. -/
def Completes (i : Instr) (s : State) (P : State → Prop) : Prop := ∃ t, exec i s = .next t ∧ P t

/-- The accumulator that the dispatch state `d` selects (40_dispatch.md R124), in any state. -/
def accIn (d : DispatchState) (t : State) : Word := if d = .b ∨ d = .bb then t.b else t.a

/-- The name of the accumulator that `d` selects. -/
def accField (d : DispatchState) : Field := if d = .b ∨ d = .bb then .b else .a

/-- The four lagged flags (10_state.md R30, R31, R32). -/
def laggedFlags : List Field := [.cmpOld, .cmpNew, .accA0, .carry]

/-- The number in the accumulator that the state itself selects. -/
def accNat (s : State) : Nat := (accIn s.ds s).toNat

/-- What an instruction leaves that writes the selected accumulator, as numbers: the result, the operand (cmp_new) and
the raw value (carry). The other lagged flags speak of the accumulator before it (10_state.md R30, R31), the next
dispatch state is AA, and of everything else only the fields of `extra` may change. -/
def AccumulatorStep (extra : List Field) (result operand raw : Nat) (s t : State) : Prop :=
  (accIn s.ds t).toNat = result ∧ t.cmpNew.toNat = operand ∧ t.cmpOld = accIn s.ds s ∧
    t.accA0 = decide (accNat s % 2 = 1) ∧ t.carry.toNat = raw ∧ t.ds = .aa ∧
    ChangesOnly (accField s.ds :: .ds :: laggedFlags ++ extra) s t

/-- `sext12` in numbers (00_scope.md R9). -/
def signed12 (v : Word) : Int := if v.toNat < 2048 then v.toNat else (v.toNat : Int) - 4096

/-- `asr12` in numbers (00_scope.md R9): halve, and keep bit 11. -/
def asrNat (v : Nat) : Nat := v / 2 + if 2048 ≤ v then 2048 else 0

/-- The in-page jump target in numbers (45_jump.md R220): the page of the opcode's own address, plus J. -/
def pageJump (s : State) : Nat := (s.pc.toNat + 65535) % 65536 / 4096 * 4096 + s.j.toNat

/-- An in-page jump that is taken when `cond` holds: PC, the `taken` output, the next dispatch state of the idle class,
and nothing else (45_jump.md R220, R223). -/
def JumpsWhen (i : Instr) (cond : Bool) (extra : List Field) (s : State) (P : State → Prop) : Prop :=
  Completes i s fun t =>
    t.pc.toNat = (if cond then pageJump s else s.pc.toNat) ∧ t.out.taken = (s.out.taken || cond) ∧
      t.ds = NextClass.idle.next s.ds ∧ P t ∧ ChangesOnly (.pc :: .taken :: .ds :: extra) s t

/-- The B-flip variant does what the plain instruction does, but for the next dispatch state (40_dispatch.md R126). -/
def FlipVariantOf (plain variant : Instr) (s : State) : Prop :=
  ∃ t, exec plain s = .next t ∧ exec variant s = .next { t with ds := NextClass.flip.next s.ds }

/-- A table entry that is no placeholder shifts the selected accumulator by `f`, with the magic constant `k` as the
operand of its flags (44_shift.md R201). -/
def ShiftsSelected (i : Instr) (op : Byte) (k : Nat) (f : Nat → Nat) (s : State) : Prop :=
  (s.ds, op) ∉ s.placeholders → Completes i s (AccumulatorStep [] (f (accNat s)) k (k + accNat s) s)

/-- A table entry that is no placeholder leaves `a` and `b` in the two accumulators, with the magic constant `k` as the
operand of its flags (44_shift.md R201). -/
def ShiftsBoth (i : Instr) (op : Byte) (k a b : Nat) (s : State) : Prop :=
  (s.ds, op) ∉ s.placeholders →
    Completes i s fun t =>
      t.a.toNat = a ∧ t.b.toNat = b ∧ t.cmpOld = accIn s.ds s ∧ t.cmpNew.toNat = k ∧
        t.accA0 = decide (accNat s % 2 = 1) ∧ t.carry.toNat = k + accNat s ∧ t.ds = .aa ∧
        ChangesOnly (.a :: .b :: .ds :: laggedFlags) s t

/-- A table entry that is a placeholder changes nothing but the dispatch state (44_shift.md R213). -/
def DoesNothingAsPlaceholder (i : Instr) (op : Byte) (s : State) : Prop :=
  (s.ds, op) ∈ s.placeholders → exec i s = .next { s with ds := .aa }

/-- The word the second PortRead of a step is answered, after the first used up one answer. -/
def secondAnswer (s : State) : PortWord := s.portIn.tail.headD (Config.freePortWord (s.portReads + 1))

/-- The port that JEI reads second (45_jump.md R228): bit 7 of the OUTPUTS word selects it. -/
def jeiAxis (s : State) : Port := if s.portAnswer.toNat / 128 % 2 = 1 then .joyX else .joyY

/-- JEI's condition in numbers (45_jump.md R228). -/
def jeiNear (s : State) : Bool := decide (((secondAnswer s).toNat : Int) - signed12 s.fromX < 2048)

/-- What the two port reads of JEI leave (45_jump.md R228). -/
def JeiReads (s t : State) : Prop :=
  t.out.ops = s.out.ops ++ [.portRead .outputs s.portAnswer, .portRead (jeiAxis s) (secondAnswer s)] ∧
    t.portIn = s.portIn.drop 2 ∧ t.portReads = s.portReads + 2

/-- Bits 11 and 9 of a number agree (46_io_vector.md R257). -/
def bitsAgree (n : Nat) : Prop := n.testBit 11 = n.testBit 9

/-- A step that completes: the machine goes on. -/
def StepsOn (s : State) : Prop := ∃ t, step s = .next t

/-- A run of instructions one after the other, each on the state its predecessor left; `none` when one of them does
not complete. -/
def execAll : List Instr → State → Option State
  | [], s => some s
  | i :: rest, s =>
    match exec i s with
    | .next t => execAll rest t
    | .fault _ => none
    | .refused _ => none

/-- The machine invariant: both memories canonical, and the top three bits of the carry scratch clear
(10_state.md R32). -/
def State.Inv (s : State) : Prop := Memory.wf s.ram s.prog = true ∧ s.carry.toNat < 0x2000

/-- The colour is a 4-bit code in the two modes that write only such (46_io_vector.md R256). -/
def State.ColourInv (s : State) : Prop :=
  s.monitorMode = .bilevel ∨ s.monitorMode = .level16 → s.vgColour.toNat < 16

/-- The width of each register the host can name (70_reset_and_hazards.md R314). -/
def registerWidth (id : Nat) : Option Nat :=
  if id = 0 ∨ id = 14 then some 16
  else if id = 1 ∨ id = 2 ∨ id = 4 ∨ id = 6 ∨ id = 7 ∨ id = 8 ∨ id = 11 ∨ id = 12 then some 12
  else if id = 3 ∨ id = 9 ∨ id = 10 then some 8
  else if id = 5 then some 4
  else if id = 13 then some 1
  else if id = 15 then some 2
  else if 256 ≤ id ∧ id < 512 then some 12
  else none

end Sys2Proof.Machine
end

