-- ==== Sys2Proof/Certificates/Slice0/Obligations.lean ====
section
/-! DEFINITION. The statements for the provers. A docstring names the rule of spec/ that a statement formalises; where
it says "spec's choice", the statement rests on a decision the spec marks as its own (92_eei_decisions.md). -/

open Sys2Proof Sys2Proof.Machine

/-! ### Decoding and encoding -/

/-- 30_encoding.md section 2, spec's choice D1: words written out from the encoding tables decode to their
instruction. -/
def Obligations.SampleWordsDecode : Prop :=
  decodeTableWord 8 0x05 = some (.ldai 5) ∧ decodeTableWord 16 0xFF20 = some (.addx 0xFF) ∧
    decodeTableWord 8 0x3F = some (.subi 15) ∧ decodeTableWord 16 0xA14B = some (.ldji 0x1AB) ∧
    decodeTableWord 8 0x5D = some .jnc ∧ decodeTableWord 8 0x96 = some (.out 6) ∧
    decodeTableWord 8 0xD7 = some (.sta 7) ∧ decodeTableWord 8 0xE0 = some .vdr ∧
    decodeTableWord 8 0xF3 = some (.mul .f) ∧ decodeTableWord 8 0xFE = some .asrdf

/-- Decoding what `encode` writes gives the instruction back, with every operand at every value, and leaves the bytes
after it. The two redirected opcodes 0x51 and 0x59 ask for the polarity of the instruction. The opcode values are the
spec's choice D1; that an instruction keeps which byte of an alias pair it was written with is the model's (log 22). -/
def Obligations.DecodeOfEncode : Prop :=
  ∀ (pol : JumpPolarity) (i : Instr) (rest : List Byte),
    i.wellFormed = true → i.availableUnder pol = true → decode pol (encode i ++ rest) = .ok (i, rest)

/-- Encoding what the decoder reads gives the bytes back: no byte of an instruction is dropped or merged, and every
decoded instruction is well formed and one of the configuration. The opcode values are the spec's choice D1; that the
byte of an alias pair survives is the model's own choice (log 22): the spec says only that the two behave alike. -/
def Obligations.EncodeOfDecode : Prop :=
  ∀ (pol : JumpPolarity) (op operand : Byte),
    encode (decodeOp pol op operand) = (if opLength op = 2 then [op, operand] else [op]) ∧
      (decodeOp pol op operand).wellFormed = true ∧ (decodeOp pol op operand).availableUnder pol = true

/-- 30_encoding.md section 1 (R103, derived by the spec): two bytes for 0x20, 0x30 and 0x40..0x4F, else one. A list
that ends before the length is reached is rejected by name, and no other list is. -/
def Obligations.LengthFromOpcode : Prop :=
  ∀ (pol : JumpPolarity) (op : Byte) (rest : List Byte),
    (opLength op = 2 ↔ op.toNat = 32 ∨ op.toNat = 48 ∨ op.toNat / 16 = 4) ∧ (opLength op = 1 ∨ opLength op = 2) ∧
      (decode pol (op :: rest) = .error .noOperand ↔ opLength op = 2 ∧ rest = []) ∧
      decode pol (op :: rest) ≠ .error .noOpcode

/-- 40_dispatch.md R130: every opcode byte, in every dispatch state and configuration, decodes and has a handler that
completes. -/
def Obligations.EveryOpcodeHasAHandler : Prop :=
  ∀ (op operand : Byte) (s : State), ∃ i rest t, decode s.jumpPolarity [op, operand] = .ok (i, rest) ∧ exec i s = .next t

/-! ### The step -/

/-- 40_dispatch.md section 1: the step fetches the bytes at PC, advances PC past them modulo 65536 with one Fetch each
and no other output pending, and is then `exec` of the instruction they decode to. That an operand byte is fetched
before `exec` is the model's reading (log 12), that outputs are cleared and Fetch is recorded in the state its choice
(log 11). -/
def Obligations.StepRunsDecodedInstruction : Prop :=
  ∀ (s : State) (i : Instr) (rest : List Byte),
    decode s.jumpPolarity [s.programByte s.pc, s.programByte (s.pc + 1)] = .ok (i, rest) →
      step s =
        exec i
          (if rest = [] then { s with pc := s.pc + 2, out := { ops := [.fetch s.pc, .fetch (s.pc + 1)] } }
          else { s with pc := s.pc + 1, out := { ops := [.fetch s.pc] } })

/-- 40_dispatch.md section 1 and 60_exceptions.md section 1 (no fault, no trap, no stop; spec's choice D32): from
every state the step answers a next state. -/
def Obligations.EveryStepCompletes : Prop := ∀ s : State, StepsOn s

/-- 40_dispatch.md section 2, spec's choice D6: the next dispatch state is the one the table of R125 gives for the
instruction's class and the old dispatch state, whatever the data. -/
def Obligations.NextStateFollowsClass : Prop :=
  ∀ (i : Instr) (s : State), Completes i s fun t => t.ds = i.nextClass.next s.ds

/-- 40_dispatch.md section 2, spec's choice D5 and D6: the B side lasts through any number of instructions that are
not accumulator-class, and the first accumulator-class one returns to AA. -/
def Obligations.BSideLastsUntilAccumulatorOp : Prop :=
  ∀ (before : List Instr) (last : Instr) (s : State),
    s.ds = .b ∨ s.ds = .bb → (∀ i ∈ before, i.nextClass ≠ .accumulator) → last.nextClass = .accumulator →
      ∃ t u, execAll before s = some t ∧ (t.ds = .b ∨ t.ds = .bb) ∧ exec last t = .next u ∧ u.ds = .aa

/-! ### Invariants and whole-machine rules -/

/-- The invariant holds in `State.reset`, and `reset()` keeps it (70_reset_and_hazards.md section 1; the canonical
form of the memories is the model's own, log 14). -/
def Obligations.InvariantHoldsAtReset : Prop := State.reset.Inv ∧ State.reset.ColourInv ∧ ∀ s : State, s.Inv → s.hostReset.Inv

/-- Every step keeps the invariant: both memories in canonical form, and carry[15:13] = 0 (10_state.md R32, a clause
the spec derives). -/
def Obligations.StepKeepsInvariant : Prop := ∀ s t : State, s.Inv → step s = .next t → t.Inv

/-- 46_io_vector.md section 3 (R256, derived by the spec): under BILEVEL and LEVEL16 the colour stays a 4-bit code. -/
def Obligations.StepKeepsColourCode : Prop := ∀ s t : State, s.ColourInv → step s = .next t → t.ColourInv

/-- 20_memory.md section 1, 10_state.md sections 1 and 4: no step writes T (spec's choice D26), the configuration, the
parameters or program storage, which the model holds in State (logs 1, 7 and 8). -/
def Obligations.StepNeverWritesHostState : Prop :=
  ∀ s t : State, step s = .next t →
    t.t = s.t ∧ t.prog = s.prog ∧ t.jumpPolarity = s.jumpPolarity ∧ t.addressSpaceSize = s.addressSpaceSize ∧
      t.monitorMode = s.monitorMode ∧ t.placeholders = s.placeholders ∧ t.colour64 = s.colour64 ∧
      t.colourGame = s.colourGame

/-- 10_state.md sections 1 and 3: which instructions alone write P, J, the origin, the colour, the shift length, I and
RAM. -/
def Obligations.RegistersHaveTheirWriters : Prop :=
  ∀ (i : Instr) (s t : State), exec i s = .next t →
    (t.p ≠ s.p → ∃ n, i = .ldp n) ∧ (t.j ≠ s.j → (∃ x, i = .ldji x) ∨ ∃ v, i = .ldjr v) ∧
      (t.fromX ≠ s.fromX ∨ t.fromY ≠ s.fromY → i = .vin) ∧ (t.vgColour ≠ s.vgColour → ∃ n, i = .out n) ∧
      (t.vgShiftLength ≠ s.vgShiftLength → ∃ v, i = .llt v) ∧
      (t.i ≠ s.i → ∃ n, i = .add n ∨ i = .sub n ∨ i = .lda n ∨ i = .cmp n ∨ i = .sta n ∨ i = .ldi n) ∧
      ((∃ ea, t.readRam ea ≠ s.readRam ea) → (∃ n, i = .sta n) ∨ ∃ v, i = .star v)

/-- 70_reset_and_hazards.md section 3: instructions that are not accumulator-class, and LLT, disturb none of the
lagged flags and no accumulator but LLT's, however many stand in a row. -/
def Obligations.LaggedFlagsSurviveOtherClasses : Prop :=
  ∀ (is : List Instr) (s : State), (∀ i ∈ is, i.nextClass ≠ .accumulator ∨ ∃ v, i = .llt v) →
    ∃ t, execAll is s = some t ∧ t.cmpOld = s.cmpOld ∧ t.cmpNew = s.cmpNew ∧ t.accA0 = s.accA0 ∧ t.carry = s.carry ∧
      ((∀ i ∈ is, i.nextClass ≠ .accumulator) → t.a = s.a ∧ t.b = s.b)

/-- 10_state.md section 1, spec's choice D26: no step reads T. Changing T changes the next state in T alone. -/
def Obligations.StepNeverReadsT : Prop :=
  ∀ (s u : State) (v : Word), step s = .next u → step { s with t := v } = .next { u with t := v }

/-- 00_scope.md section 3: outside the redirectors nothing depends on the configuration. OUT alone reads the monitor
mode, JPPB alone the address space size, and no meaning the jump polarity, which selects among decoded instructions
only. -/
def Obligations.OnlyRedirectorsReadConfiguration : Prop :=
  ∀ (i : Instr) (s u : State) (jp : JumpPolarity) (size : AddressSpaceSize) (mode : MonitorMode), exec i s = .next u →
    exec i { s with jumpPolarity := jp } = .next { u with jumpPolarity := jp } ∧
      (i ≠ .jppb → exec i { s with addressSpaceSize := size } = .next { u with addressSpaceSize := size }) ∧
      ((∀ n, i ≠ .out n) → exec i { s with monitorMode := mode } = .next { u with monitorMode := mode }) ∧
      (i.availableUnder .jmiMode = true ∧ i.availableUnder .jeiMode = true ∨ i = .jmi ∨ i = .jmib ∨ i = .jei ∨ i = .jeib)

/-- 30_encoding.md section 2, spec's choice D36: the alias bytes of rows 0xE and 0xF, OUT n and n + 8, INP n and n + 8
on the B side, JDR and NOP, JDRB and NOPB behave alike; the last four have the opcodes 0x5A, 0x5F, 0x52 and 0x57 (D1).
-/
def Obligations.AliasesBehaveAlike : Prop :=
  (∀ (fn : BitVec 4) (s : State), 1 ≤ fn.toNat → fn.toNat ≤ 10 →
      exec (decodeRowE fn) s = exec (decodeRowF fn) s) ∧
    (∀ (n : BitVec 4) (s : State), exec (.out n) s = exec (.out (n + 8)) s) ∧
    (∀ (n : BitVec 4) (s : State), s.ds = .b ∨ s.ds = .bb → exec (.inp n) s = exec (.inp (n + 8)) s) ∧
    (∀ s : State, exec .jdr s = exec .nop s ∧ exec .jdrb s = exec .nopb s) ∧
    ∀ (pol : JumpPolarity) (operand : Byte),
      decodeOp pol 0x5A operand = .jdr ∧ decodeOp pol 0x5F operand = .nop ∧ decodeOp pol 0x52 operand = .jdrb ∧
        decodeOp pol 0x57 operand = .nopb

/-! ### Reset and the host operations -/

/-- 70_reset_and_hazards.md section 1 (R300; for the flags with spec's choice D33): after reset every state element
has the value of the table of 10_state.md R38, from whatever state; all 256 RAM cells are 0. `State.reset` is such a
state. -/
def Obligations.ResetTable : Prop :=
  ∀ s : State,
    (s.hostReset.pc = 0 ∧ s.hostReset.a = 0 ∧ s.hostReset.b = 0 ∧ s.hostReset.j = 0 ∧ s.hostReset.t = 0 ∧
        s.hostReset.fromX = 0 ∧ s.hostReset.fromY = 0 ∧ s.hostReset.i = 0 ∧ s.hostReset.p = 0 ∧
        s.hostReset.vgColour = 0 ∧ s.hostReset.vgShiftLength = 0 ∧ s.hostReset.cmpOld = 0 ∧ s.hostReset.cmpNew = 0 ∧
        s.hostReset.accA0 = false ∧ s.hostReset.carry = 0 ∧ s.hostReset.ds = .a ∧ ∀ ea, s.hostReset.readRam ea = 0) ∧
      State.reset.getState = s.hostReset.getState

/-- 70_reset_and_hazards.md section 1 (R301, R302; spec's choice D33 and derived): reset leaves configuration,
parameters (fields of logs 7 and 8) and environment alone, performs nothing, and the first conditional jump then goes
as the spec lists. -/
def Obligations.FirstInstructionAfterReset : Prop :=
  ∀ s : State,
    s.hostReset.out = {} ∧ s.hostReset.prog = s.prog ∧ s.hostReset.jumpPolarity = s.jumpPolarity ∧
      s.hostReset.addressSpaceSize = s.addressSpaceSize ∧ s.hostReset.monitorMode = s.monitorMode ∧
      s.hostReset.placeholders = s.placeholders ∧ s.hostReset.colour64 = s.colour64 ∧
      s.hostReset.colourGame = s.colourGame ∧ s.hostReset.portIn = s.portIn ∧ s.hostReset.portReads = s.portReads ∧
      ∃ t, step s.hostReset = .next t ∧ t.out.ops.head? = some (.fetch 0) ∧
        (s.programByte 0 = 0x5C → t.out.taken = true) ∧ (s.programByte 0 = 0x5B → t.out.taken = false) ∧
        (s.programByte 0 = 0x5D → t.out.taken = true) ∧ (s.programByte 0 = 0x5E → t.out.taken = false) ∧
        (s.programByte 0 = 0x59 → s.jumpPolarity = .jmiMode → t.out.taken = false)

/-- 10_state.md section 5 and 70_reset_and_hazards.md section 2, spec's choice D34: set_state(get_state()) is a no-op,
and set_state reduces every element to its width and touches nothing outside the snapshot. -/
def Obligations.SetStateLoadsSnapshot : Prop :=
  (∀ s : State, ramWf s.ram = true → s.setState s.getState = s) ∧
    ∀ (x : Snapshot) (s : State), ∃ t, t = s.setState x ∧
      t.pc.toNat = x.pc % 65536 ∧ t.a.toNat = x.a % 4096 ∧ t.b.toNat = x.b % 4096 ∧ t.i.toNat = x.i % 256 ∧
      t.j.toNat = x.j % 4096 ∧ t.p.toNat = x.p % 16 ∧ t.t.toNat = x.t % 4096 ∧ t.fromX.toNat = x.fromX % 4096 ∧
      t.fromY.toNat = x.fromY % 4096 ∧ t.vgColour.toNat = x.vgColour % 256 ∧
      t.vgShiftLength.toNat = x.vgShiftLength % 256 ∧ t.cmpOld.toNat = x.cmpOld % 4096 ∧
      t.cmpNew.toNat = x.cmpNew % 4096 ∧ t.accA0.toNat = x.accA0 % 2 ∧ t.carry.toNat = x.carry % 65536 ∧
      t.ds.code = x.ds % 4 ∧ (∀ ea : Byte, (t.readRam ea).toNat = x.ram.getD ea.toNat 0 % 4096) ∧
      t.jumpPolarity = s.jumpPolarity ∧ t.addressSpaceSize = s.addressSpaceSize ∧ t.monitorMode = s.monitorMode ∧
      t.prog = s.prog ∧ t.out = s.out ∧ t.portIn = s.portIn ∧ t.portReads = s.portReads ∧
      t.placeholders = s.placeholders ∧ t.colour64 = s.colour64 ∧ t.colourGame = s.colourGame

/-- 70_reset_and_hazards.md section 2 (R314, R315), spec's choice D34: set_register writes the value modulo 2^width to
the named register and changes nothing else, no other register and nothing outside the snapshot; an id outside the
table is refused. -/
def Obligations.SetRegisterWritesOneRegister : Prop :=
  ∀ (id value : Nat) (s : State), ramWf s.ram = true →
    match registerWidth id with
    | none => s.getRegister id = none ∧ s.setRegister id value = none
    | some width =>
      ∃ t, s.setRegister id value = some t ∧ t.getRegister id = some (value % 2 ^ width) ∧
        (∀ other, other ≠ id → t.getRegister other = s.getRegister other) ∧ t.prog = s.prog ∧
        ChangesOnly snapshotFields s t

/-- 70_reset_and_hazards.md section 2 (R316), spec's choice D34: configure with three member names sets the three
configuration registers and nothing else; with a name of no member it is refused as a whole. -/
def Obligations.ConfigureAllOrNothing : Prop :=
  ∀ (polarity size monitor : String) (s : State),
    (∀ jp sz mm, JumpPolarity.ofName polarity = some jp → AddressSpaceSize.ofName size = some sz →
        MonitorMode.ofName monitor = some mm →
        ∃ t, s.configure polarity size monitor = some t ∧ t.jumpPolarity = jp ∧ t.addressSpaceSize = sz ∧
          t.monitorMode = mm ∧ ChangesOnly [.jumpPolarity, .addressSpaceSize, .monitorMode] s t) ∧
      ((polarity ∉ ["JMI_MODE", "JEI_MODE"] ∨ size ∉ ["MSIZE_4K", "MSIZE_8K", "MSIZE_16K", "MSIZE_32K"] ∨
          monitor ∉ ["BILEVEL", "LEVEL16", "LEVEL64", "COLOR"]) →
        s.configure polarity size monitor = none)

/-! ### Memory -/

/-- Two canonical RAMs that read the same everywhere are the same data. -/
def Obligations.EqualReadsAreEqualRam : Prop :=
  ∀ m m' : Ram, ramWf m = true → ramWf m' = true → (∀ ea, ramRead m ea = ramRead m' ea) → m = m'

/-- 20_memory.md section 4 (sequential consistency, spec's choice D30): STA n, then LDA n on the same side and page,
loads back the stored accumulator, whatever the two accumulators hold in between, and LDAR and LDJR find the same cell
through I. -/
def Obligations.StoreThenLoadReturnsValue : Prop :=
  ∀ (n : BitVec 4) (v : Form) (x y : Word) (s t : State), ramWf s.ram = true → exec (.sta n) s = .next t →
    Completes (.lda n) { t with a := x, b := y }
        (fun u => accIn s.ds u = accIn s.ds s ∧ u.cmpNew = accIn s.ds s) ∧
      Completes (.ldar v) { t with a := x, b := y }
        (fun u => accIn s.ds u = accIn s.ds s ∧ u.cmpNew = accIn s.ds s) ∧
      Completes (.ldjr v) { t with a := x, b := y } fun u => u.j = accIn s.ds s

/-! ### Loads and stores -/

/-- 41_load_store.md sections 1 and 2, spec's choice D9 and D10: LDAI, LDA and LDAR load n << 8, the cell (P, n), and
the cell I points at; LDA leaves its address in I. -/
def Obligations.LoadsFillSelectedAccumulator : Prop :=
  ∀ (n : BitVec 4) (v : Form) (s : State),
    Completes (.ldai n) s (AccumulatorStep [] (n.toNat * 256) (n.toNat * 256) (accNat s) s) ∧
      Completes (.lda n) s (fun t =>
        t.i.toNat = 16 * s.p.toNat + n.toNat ∧
          AccumulatorStep [.i] (s.readRam t.i).toNat (s.readRam t.i).toNat (accNat s) s t) ∧
      Completes (.ldar v) s (AccumulatorStep [] (s.readRam s.i).toNat (s.readRam s.i).toNat (accNat s) s)

/-- 41_load_store.md section 3, spec's choice D6 and D7: STA and STAR store the selected accumulator at (P, n) and at
I, write no flag, and leave every other cell as it was. -/
def Obligations.StoresWriteOneCell : Prop :=
  ∀ (n : BitVec 4) (v : Form) (s : State), ramWf s.ram = true →
    (directAddr n s).toNat = 16 * s.p.toNat + n.toNat ∧
      Completes (.sta n) s (fun t =>
        t.i = directAddr n s ∧ t.readRam (directAddr n s) = accIn s.ds s ∧
          (∀ ea, ea ≠ directAddr n s → t.readRam ea = s.readRam ea) ∧ t.ds = NextClass.idle.next s.ds ∧
          ChangesOnly [.i, .ram, .ds] s t) ∧
      Completes (.star v) s fun t =>
        t.readRam s.i = accIn s.ds s ∧ (∀ ea, ea ≠ s.i → t.readRam ea = s.readRam ea) ∧
          t.ds = NextClass.idle.next s.ds ∧ ChangesOnly [.ram, .ds] s t

/-- 41_load_store.md section 4 (R157, R158; the opcodes: spec's choice D1 and D36): 0xE1 and 0xF1 are LDJR, which
loads J from the cell at I; opcodes 0x80 to 0x8F are LDP n, which loads P with n and leaves I; both write no flag and
go to the idle state of the side. -/
def Obligations.LdjrAndLdpLoadControlRegisters : Prop :=
  (∀ (pol : JumpPolarity) (operand : Byte) (n : BitVec 4),
      decodeOp pol 0xE1 operand = .ldjr .e ∧ decodeOp pol 0xF1 operand = .ldjr .f ∧
        decodeOp pol (BitVec.ofNat 8 (0x80 + n.toNat)) operand = .ldp n) ∧
    ∀ (n : BitVec 4) (v : Form) (s : State),
      Completes (.ldjr v) s (fun t =>
        t.j = s.readRam s.i ∧ t.ds = NextClass.idle.next s.ds ∧ ChangesOnly [.j, .ds] s t) ∧
      Completes (.ldp n) s fun t => t.p = n ∧ t.ds = NextClass.idle.next s.ds ∧ ChangesOnly [.p, .ds] s t

/-- 41_load_store.md section 4, spec's choice D1 and D3: LDJI loads the 12-bit target into J; its bytes carry J[3:0],
then J[7:4] and J[11:8]. LDI loads I with the low byte of the cell (P, n). -/
def Obligations.LdjiAndLdiLoadControlRegisters : Prop :=
  (∀ (pol : JumpPolarity) (op operand : Byte), op.toNat / 16 = 4 →
      ∃ x, decodeOp pol op operand = .ldji x ∧
        x.toNat = op.toNat % 16 + operand.toNat / 16 * 16 + operand.toNat % 16 * 256) ∧
    ∀ (x : Word) (n : BitVec 4) (s : State),
      Completes (.ldji x) s (fun t => t.j = x ∧ t.ds = NextClass.idle.next s.ds ∧ ChangesOnly [.j, .ds] s t) ∧
      Completes (.ldi n) s fun t =>
        t.i.toNat = (s.readRam (BitVec.ofNat 8 (16 * s.p.toNat + n.toNat))).toNat % 256 ∧
          t.ds = NextClass.idle.next s.ds ∧ ChangesOnly [.i, .ds] s t

/-! ### Arithmetic -/

/-- 42_arith_logic.md sections 1 and 2 (R170; the forms and the next state: spec's choice D1, D6, D12): every add
writes the pair with operand and old accumulator, the unmasked sum to carry, and the sum modulo 4096 to the
accumulator. The operand is the nibble, the byte, the cell (P, n), the cell at I. -/
def Obligations.AddsWriteSumAndFlags : Prop :=
  ∀ (n : BitVec 4) (imm : Byte) (v : Form) (s : State),
    Completes (.addi n) s (AccumulatorStep [] ((accNat s + n.toNat) % 4096) n.toNat (accNat s + n.toNat) s) ∧
      Completes (.addx imm) s
        (AccumulatorStep [] ((accNat s + imm.toNat) % 4096) imm.toNat (accNat s + imm.toNat) s) ∧
      Completes (.add n) s (fun t =>
        t.i.toNat = 16 * s.p.toNat + n.toNat ∧
          AccumulatorStep [.i] ((accNat s + (s.readRam t.i).toNat) % 4096) (s.readRam t.i).toNat
            (accNat s + (s.readRam t.i).toNat) s t) ∧
      Completes (.addr v) s
        (AccumulatorStep [] ((accNat s + (s.readRam s.i).toNat) % 4096) (s.readRam s.i).toNat
          (accNat s + (s.readRam s.i).toNat) s)

/-- 42_arith_logic.md sections 1 and 3, spec's choice D11 and D6: every subtract adds the 13-bit negation 4096 - v;
the unmasked result goes to carry, so that carry[12] = 1 exactly when there is no borrow. -/
def Obligations.SubtractsWriteDifferenceAndFlags : Prop :=
  ∀ (n : BitVec 4) (imm : Byte) (v : Form) (s : State),
    Completes (.subi n) s
        (AccumulatorStep [] ((accNat s + (4096 - n.toNat)) % 4096) n.toNat (accNat s + (4096 - n.toNat)) s) ∧
      Completes (.subx imm) s
        (AccumulatorStep [] ((accNat s + (4096 - imm.toNat)) % 4096) imm.toNat (accNat s + (4096 - imm.toNat)) s) ∧
      Completes (.sub n) s (fun t =>
        t.i.toNat = 16 * s.p.toNat + n.toNat ∧ (4096 ≤ t.carry.toNat ↔ (s.readRam t.i).toNat ≤ accNat s) ∧
          AccumulatorStep [.i] ((accNat s + (4096 - (s.readRam t.i).toNat)) % 4096) (s.readRam t.i).toNat
            (accNat s + (4096 - (s.readRam t.i).toNat)) s t) ∧
      Completes (.subr v) s fun t =>
        (4096 ≤ t.carry.toNat ↔ (s.readRam s.i).toNat ≤ accNat s) ∧
          AccumulatorStep [] ((accNat s + (4096 - (s.readRam s.i).toNat)) % 4096) (s.readRam s.i).toNat
            (accNat s + (4096 - (s.readRam s.i).toNat)) s t

/-- 42_arith_logic.md section 4, spec's choice D6 and D9: CMP writes the pair and the carry of the subtraction, and no
accumulator and no A0 flag. -/
def Obligations.CompareWritesFlagsOnly : Prop :=
  ∀ (n : BitVec 4) (s : State),
    Completes (.cmp n) s fun t =>
      t.i.toNat = 16 * s.p.toNat + n.toNat ∧ t.cmpOld = accIn s.ds s ∧ t.cmpNew = s.readRam t.i ∧
        t.carry.toNat = accNat s + (4096 - (s.readRam t.i).toNat) ∧ t.ds = .aa ∧
        ChangesOnly [.i, .cmpOld, .cmpNew, .carry, .ds] s t

/-- 42_arith_logic.md section 4 and 45_jump.md section 2: after CMP n, JEQ is taken exactly when the cell equals the
accumulator, JLT exactly when it is below it, JNC exactly when the accumulator is below it. -/
def Obligations.CompareThenJump : Prop :=
  ∀ (n : BitVec 4) (s : State), s.out.taken = false →
    Completes (.cmp n) s fun t =>
      Completes .jeq t (fun u => u.out.taken = decide ((s.readRam t.i).toNat = accNat s)) ∧
        Completes .jlt t (fun u => u.out.taken = decide ((s.readRam t.i).toNat < accNat s)) ∧
        Completes .jnc t fun u => u.out.taken = decide (accNat s < (s.readRam t.i).toNat)

/-- 42_arith_logic.md section 4, spec's choice D37 and D6: ANDR writes the bitwise AND with the cell at I to the
accumulator and to carry. -/
def Obligations.AndWritesResultAndFlags : Prop :=
  ∀ (v : Form) (s : State),
    Completes (.andr v) s
      (AccumulatorStep [] (accNat s &&& (s.readRam s.i).toNat) (s.readRam s.i).toNat
        (accNat s &&& (s.readRam s.i).toNat) s)

/-! ### Translate, multiply, shifts -/

/-- 43_xlt_mul.md R190 with spec's choice D22 and D6: XLT loads the program byte at the page of its own opcode plus
the accumulator, with one Fetch, and skips a byte that it does not fetch. -/
def Obligations.XltTranslatesThroughProgram : Prop :=
  ∀ (v : Form) (s : State), ∃ x : Addr,
    x.toNat = (s.pc.toNat + 65535) % 65536 / 4096 * 4096 + accNat s ∧
      Completes (.xlt v) s fun t =>
        t.pc.toNat = (s.pc.toNat + 1) % 65536 ∧ t.out.ops = s.out.ops ++ [.fetch x] ∧
          AccumulatorStep [.pc, .ops] (s.programByte x).toNat (s.programByte x).toNat (accNat s) s t

/-- 43_xlt_mul.md, the A-side multiply step, spec's choice D16 and D6: with A odd the cell is added to the shifted B;
with A even the sum reaches the carry only; the pair (B, A) moves right one place. -/
def Obligations.MultiplyStepOnASide : Prop :=
  ∀ (v : Form) (s : State), s.ds = .a ∨ s.ds = .aa →
    Completes (.mul v) s fun t =>
      t.a.toNat = s.b.toNat % 2 * 2048 + s.a.toNat / 2 ∧ t.cmpNew = s.readRam s.i ∧
        t.accA0 = decide (s.a.toNat % 2 = 1) ∧ t.ds = .aa ∧
        (if s.a.toNat % 2 = 1 then
          t.cmpOld = s.b ∧ t.carry.toNat = asrNat s.b.toNat + (s.readRam s.i).toNat ∧
            t.b.toNat = (asrNat s.b.toNat + (s.readRam s.i).toNat) % 4096
        else
          t.cmpOld = s.a ∧ t.carry.toNat = s.a.toNat + (s.readRam s.i).toNat ∧ t.b.toNat = asrNat s.b.toNat) ∧
        ChangesOnly (.a :: .b :: .ds :: laggedFlags) s t

/-- 43_xlt_mul.md, the B-side multiply step, spec's choice D16 and D6: B alone moves; A gives its bit 0 and is not
written. -/
def Obligations.MultiplyStepOnBSide : Prop :=
  ∀ (v : Form) (s : State), s.ds = .b ∨ s.ds = .bb →
    Completes (.mul v) s fun t =>
      t.cmpNew = s.readRam s.i ∧ t.cmpOld = s.b ∧ t.accA0 = decide (s.a.toNat % 2 = 1) ∧
        t.carry.toNat = asrNat s.b.toNat + (s.readRam s.i).toNat ∧ t.ds = .aa ∧
        t.b.toNat =
          (if s.a.toNat % 2 = 1 then (asrNat s.b.toNat + (s.readRam s.i).toNat) % 4096 else asrNat s.b.toNat) ∧
        ChangesOnly (.b :: .ds :: laggedFlags) s t

/-- 44_shift.md, the single-length shifts, spec's choice D13, D14 and D6, with the magic constant of each opcode. The
F forms do the same where the placeholder set leaves them out. -/
def Obligations.SingleShiftsMoveSelectedAccumulator : Prop :=
  ∀ s : State,
    ShiftsSelected .lsre 0xEB 0xBEB (fun x => x / 2) s ∧ ShiftsSelected .lsle 0xEC 0xCEC (fun x => x * 2 % 4096) s ∧
      ShiftsSelected .asre 0xED 0xDED asrNat s ∧ ShiftsSelected .lsrf 0xFB 0xBFB (fun x => x / 2) s ∧
      ShiftsSelected .lslf 0xFC 0xCFC (fun x => x * 2 % 4096) s ∧ ShiftsSelected .asrf 0xFD 0xDFD asrNat s

/-- 44_shift.md, the double-length shifts, spec's choice D13, D14 and D6: ASRDE and ASRDF move the pair (B, A) on the
A side and B alone on the B side; LSLDE and LSLDF move both accumulators, no bit passing between them. -/
def Obligations.DoubleShiftsMoveBothAccumulators : Prop :=
  ∀ s : State,
    (s.ds = .a ∨ s.ds = .aa →
        ShiftsBoth .asrde 0xEE 0xEEE (s.b.toNat % 2 * 2048 + s.a.toNat / 2) (asrNat s.b.toNat) s ∧
          ShiftsBoth .asrdf 0xFE 0xEFE (s.b.toNat % 2 * 2048 + s.a.toNat / 2) (asrNat s.b.toNat) s) ∧
      (s.ds = .b ∨ s.ds = .bb →
        ShiftsBoth .asrde 0xEE 0xEEE s.a.toNat (asrNat s.b.toNat) s ∧
          ShiftsBoth .asrdf 0xFE 0xEFE s.a.toNat (asrNat s.b.toNat) s) ∧
      ShiftsBoth .lslde 0xEF 0xFEF (s.a.toNat * 2 % 4096) (s.b.toNat * 2 % 4096) s ∧
      ShiftsBoth .lsldf 0xFF 0xFFF (s.a.toNat * 2 % 4096) (s.b.toNat * 2 % 4096) s

/-- 44_shift.md section 1, spec's choice D15 and D6: a placeholder entry changes no register, flag or cell and
performs nothing; its next dispatch state is AA. Under the default set, the one State.reset holds, the entries are the
spec's 18. -/
def Obligations.PlaceholdersDoNothing : Prop :=
  (∀ s : State,
      DoesNothingAsPlaceholder .lsre 0xEB s ∧ DoesNothingAsPlaceholder .lsle 0xEC s ∧
        DoesNothingAsPlaceholder .asre 0xED s ∧ DoesNothingAsPlaceholder .asrde 0xEE s ∧
        DoesNothingAsPlaceholder .lslde 0xEF s ∧ DoesNothingAsPlaceholder .lsrf 0xFB s ∧
        DoesNothingAsPlaceholder .lslf 0xFC s ∧ DoesNothingAsPlaceholder .asrf 0xFD s ∧
        DoesNothingAsPlaceholder .asrdf 0xFE s ∧ DoesNothingAsPlaceholder .lsldf 0xFF s) ∧
    defaultPlaceholders.length = 18 ∧
    ∀ (d : DispatchState) (op : Byte), (d, op) ∈ State.reset.placeholders ↔
      op.toNat ∈ [0xFB, 0xFC, 0xFD] ∨ (d = .b ∨ d = .bb) ∧ op.toNat ∈ [0xEF, 0xFE, 0xFF]

/-! ### Jumps -/

/-- 45_jump.md sections 1 and 2 (R220, R222; the opcode: spec's choice D1, the idle next state: D6): opcode 0x58 is
JMP, which always goes to J in the page of its own opcode. -/
def Obligations.JmpStaysInPage : Prop :=
  (∀ (pol : JumpPolarity) (operand : Byte), decodeOp pol 0x58 operand = .jmp) ∧
    ∀ s : State, JumpsWhen .jmp true [] s fun _ => True

/-- 45_jump.md section 2 (R225, R230; the opcodes: spec's choice D1, the idle next state: D6): JEQ (0x5C) is taken
when the pair is equal, JA0 (0x5E) when the captured bit is set. -/
def Obligations.JeqAndJa0Conditions : Prop :=
  (∀ (pol : JumpPolarity) (operand : Byte), decodeOp pol 0x5C operand = .jeq ∧ decodeOp pol 0x5E operand = .ja0) ∧
    ∀ s : State,
      JumpsWhen .jeq (decide (s.cmpNew.toNat = s.cmpOld.toNat)) [] s (fun _ => True) ∧
        JumpsWhen .ja0 s.accA0 [] s fun _ => True

/-- 45_jump.md section 2, spec's choice D20 and D6: JLT is taken when cmp_new is below cmp_old, unsigned; JNC when
carry[15:12] is 0. -/
def Obligations.JltAndJncConditions : Prop :=
  ∀ s : State,
    JumpsWhen .jlt (decide (s.cmpNew.toNat < s.cmpOld.toNat)) [] s (fun _ => True) ∧
      JumpsWhen .jnc (decide (s.carry.toNat / 4096 = 0)) [] s fun _ => True

/-- 45_jump.md section 1, spec's choice D18 and D6: JMI tests bit 11 of A in state A, of B in state B, of cmp_old in
AA and BB. -/
def Obligations.JmiTestsByDispatchState : Prop :=
  ∀ s : State,
    (s.ds = .a → JumpsWhen .jmi (decide (2048 ≤ s.a.toNat)) [] s fun _ => True) ∧
      (s.ds = .b → JumpsWhen .jmi (decide (2048 ≤ s.b.toNat)) [] s fun _ => True) ∧
      (s.ds = .aa ∨ s.ds = .bb → JumpsWhen .jmi (decide (2048 ≤ s.cmpOld.toNat)) [] s fun _ => True)

/-- 45_jump.md section 1, spec's choice D19 and D6: JEI reads OUTPUTS and then the axis that its bit 7 selects, and is
taken when the axis word minus the signed FromX is below 0x800. -/
def Obligations.JeiTestsJoystick : Prop :=
  ∀ s : State, JumpsWhen .jei (jeiNear s) [.ops, .portIn, .portReads] s (JeiReads s)

/-- 45_jump.md R232 and R233: JDR and NOP return the unchanged state, and consume their listed cycle cost only. -/
def Obligations.JdrAndNopChangeNothing : Prop :=
  (∀ s : State, exec .jdr s = .next s ∧ exec .nop s = .next s) ∧
    ∀ (c : CostModel) (s : State), s.instrAtPc = .jdr ∨ s.instrAtPc = .nop →
      ∃ t, step s = .next t ∧ stepCharge c s.opByteAtPc t.out = c.cost s.opByteAtPc

/-- 45_jump.md section 3, spec's choice D5: each B-flip variant decides, jumps and reads ports as its plain
instruction does, and differs in the next dispatch state alone. -/
def Obligations.FlipVariantsDecideAlike : Prop :=
  ∀ s : State,
    FlipVariantOf .jmi .jmib s ∧ FlipVariantOf .jei .jeib s ∧ FlipVariantOf .jdr .jdrb s ∧ FlipVariantOf .jlt .jltb s ∧
      FlipVariantOf .jeq .jeqb s ∧ FlipVariantOf .jnc .jncb s ∧ FlipVariantOf .ja0 .ja0b s ∧ FlipVariantOf .nop .nopb s

/-- 45_jump.md section 3, spec's choice D21 and D5: the far-jump formulas for the four address space sizes; PC of the
opcode plays no part. -/
def Obligations.FarJumpFormulas : Prop :=
  ∀ s : State,
    Completes .jppb s fun t =>
      t.pc.toNat =
          (match s.addressSpaceSize with
            | .msize4K => (s.p.toNat + 3) % 4
            | .msize8K => (s.p.toNat + 3) % 4
            | .msize16K => s.p.toNat % 4
            | .msize32K => s.p.toNat % 8) * 4096 + s.j.toNat ∧
        t.out.taken = true ∧ t.ds = NextClass.flip.next s.ds ∧ ChangesOnly [.pc, .taken, .ds] s t

/-! ### Ports, vectors, wait -/

/-- 46_io_vector.md section 1, spec's choice D23 and D6: INP reads one port word, INPUTS with four select bits on the
A side, SWITCHES with three on the B side, and loads the selected bit. -/
def Obligations.InpLoadsOnePortBit : Prop :=
  ∀ (n : BitVec 4) (s : State), ∃ port k,
    (if s.ds = .b ∨ s.ds = .bb then port = .switches ∧ k = n.toNat % 8 else port = .inputs ∧ k = n.toNat) ∧
      Completes (.inp n) s fun t =>
        t.out.ops = s.out.ops ++ [.portRead port s.portAnswer] ∧ t.portIn = s.portIn.tail ∧
          t.portReads = s.portReads + 1 ∧
          AccumulatorStep [.ops, .portIn, .portReads] (s.portAnswer.toNat / 2 ^ k % 2) (s.portAnswer.toNat / 2 ^ k % 2)
            (accNat s) s t

/-- 46_io_vector.md section 2, spec's choice D24 and D6: OUT with a bit index other than 6 reads OUTPUTS once and
writes it once, with that bit set when the selected accumulator is even and clear when it is odd, and bits 15..8
clear; index 5 raises CounterReset. -/
def Obligations.OutChangesOnePortBit : Prop :=
  ∀ (n : BitVec 4) (s : State), n.toNat % 8 ≠ 6 →
    Completes (.out n) s fun t => ∃ w : PortWord,
      (∀ bit, bit < 16 → w.getLsbD bit =
          if 8 ≤ bit then false else if bit = n.toNat % 8 then decide (accNat s % 2 = 0) else s.portAnswer.getLsbD bit) ∧
        t.out.ops = s.out.ops ++ [.portRead .outputs s.portAnswer, .portWrite .outputs w] ∧
        t.portIn = s.portIn.tail ∧ t.portReads = s.portReads + 1 ∧
        t.out.counterReset = (s.out.counterReset || decide (n.toNat % 8 = 5)) ∧ t.ds = NextClass.idle.next s.ds ∧
        ChangesOnly [.ops, .portIn, .portReads, .counterReset, .ds] s t

/-- 46_io_vector.md section 2, spec's choice D25 and D6: OUT with bit index 6 performs no port operation and writes
the colour by monitor mode; the two open formulas are the state's parameters, "unchanged" where they list nothing. -/
def Obligations.OutSixSetsColour : Prop :=
  ∀ (n : BitVec 4) (s : State), n.toNat % 8 = 6 →
    Completes (.out n) s fun t =>
      t.vgColour.toNat =
          (match s.monitorMode with
            | .bilevel => if accNat s % 2 = 1 then 15 else 7
            | .level16 =>
              if accNat s % 2 = 1 then s.vgColour.toNat
              else if s.fromX.toNat % 16 = 0 then 1 else s.fromX.toNat % 16
            | .level64 =>
              ((s.colour64.lookup (accIn s.ds s, s.fromX, s.fromY, s.vgColour)).getD s.vgColour).toNat
            | .color =>
              ((s.colourGame.lookup (accIn s.ds s, s.fromX, s.fromY, s.vgColour)).getD s.vgColour).toNat) ∧
        t.ds = NextClass.idle.next s.ds ∧ ChangesOnly [.vgColour, .ds] s t

/-- 46_io_vector.md section 3, spec's choice D26: VIN latches A as X and B as Y in every dispatch state. -/
def Obligations.VinLatchesOrigin : Prop :=
  ∀ s : State,
    Completes .vin s fun t =>
      t.fromX = s.a ∧ t.fromY = s.b ∧ t.ds = NextClass.idle.next s.ds ∧ ChangesOnly [.fromX, .fromY, .ds] s t

/-- 46_io_vector.md section 3, spec's choice D26: VDR emits exactly one draw request, from the signed origin to the
interpolated end point with a flooring division by 2^vgShiftLength, and changes no register. -/
def Obligations.VdrEmitsOneVector : Prop :=
  ∀ s : State,
    Completes .vdr s fun t =>
      t.out.ops =
          s.out.ops ++
            [.emitVector (signed12 s.fromX) (signed12 s.fromY)
              ((signed12 s.a - signed12 s.fromX) / 2 ^ s.vgShiftLength.toNat + signed12 s.fromX)
              ((signed12 s.b - signed12 s.fromY) / 2 ^ s.vgShiftLength.toNat + signed12 s.fromY) s.vgColour] ∧
        t.ds = NextClass.idle.next s.ds ∧ ChangesOnly [.ops, .ds] s t

/-- 46_io_vector.md section 3 (R256, derived by the spec): the end point of a draw lies between origin and target on
each axis, so all four coordinates lie in -2048..2047. -/
def Obligations.VdrEndPointBetweenOriginAndTarget : Prop :=
  ∀ s : State, ∃ x0 y0 x1 y1 c,
    Completes .vdr s (fun t => t.out.ops = s.out.ops ++ [.emitVector x0 y0 x1 y1 c]) ∧
      min x0 (signed12 s.a) ≤ x1 ∧ x1 ≤ max x0 (signed12 s.a) ∧ min y0 (signed12 s.b) ≤ y1 ∧
      y1 ≤ max y0 (signed12 s.b) ∧ -2048 ≤ x0 ∧ x0 ≤ 2047 ∧ -2048 ≤ y0 ∧ y0 ≤ 2047 ∧ -2048 ≤ x1 ∧ x1 ≤ 2047 ∧
      -2048 ≤ y1 ∧ y1 ≤ 2047

/-- 46_io_vector.md section 3, spec's choice D17 and D6: LLT shifts both accumulators left while bits 11 and 9 of each
agree, at most 256 times; the count goes to vgShiftLength, 0 for 256; no flag changes. -/
def Obligations.LltNormalisesBothAccumulators : Prop :=
  ∀ (v : Form) (s : State),
    Completes (.llt v) s fun t => ∃ k, k ≤ 256 ∧
      (∀ m, m < k → bitsAgree (s.a.toNat * 2 ^ m) ∧ bitsAgree (s.b.toNat * 2 ^ m)) ∧
        (k < 256 → ¬(bitsAgree (s.a.toNat * 2 ^ k) ∧ bitsAgree (s.b.toNat * 2 ^ k))) ∧
        t.a.toNat = s.a.toNat * 2 ^ k % 4096 ∧ t.b.toNat = s.b.toNat * 2 ^ k % 4096 ∧
        t.vgShiftLength.toNat = k % 256 ∧ t.out.lltSteps = k ∧ t.ds = .aa ∧
        ChangesOnly [.a, .b, .vgShiftLength, .lltSteps, .ds] s t

/-- What the loop of LLT comes to (46_io_vector.md section 3, the corner cases): with both accumulators 0 it makes 256
steps and counts 0; with any other pair it stops by disagreement after at most 11 steps. -/
def Obligations.LltOverflowsOnZeroOnly : Prop :=
  ∀ (v : Form) (s : State),
    Completes (.llt v) s fun t =>
      (s.a = 0 ∧ s.b = 0 → t.out.lltSteps = 256 ∧ t.vgShiftLength = 0 ∧ t.a = 0 ∧ t.b = 0) ∧
        (¬(s.a = 0 ∧ s.b = 0) → t.out.lltSteps ≤ 11 ∧ t.vgShiftLength.toNat = t.out.lltSteps)

/-- 46_io_vector.md section 4 (R258; the opcodes: spec's choice D1 and D36, the idle next state: D6, the default cost
of both: D27 with C8 of 90_conflicts.md): opcodes 0xE5 and 0xF5 are WAI, which raises WaitRequest, goes to the idle
state of the side, and changes no register; its base cost is 0. -/
def Obligations.WaiRaisesWaitRequest : Prop :=
  (∀ (pol : JumpPolarity) (operand : Byte),
      decodeOp pol 0xE5 operand = .wai .e ∧ decodeOp pol 0xF5 operand = .wai .f) ∧
    defaultCost 0xE5 = 0 ∧ defaultCost 0xF5 = 0 ∧
    ∀ (v : Form) (s : State),
      Completes (.wai v) s fun t =>
        t.out.waitRequest = true ∧ t.ds = NextClass.idle.next s.ds ∧ ChangesOnly [.waitRequest, .ds] s t

/-! ### The run loop -/

/-- 40_dispatch.md section 3 and 70_reset_and_hazards.md section 2 (R128, R311; costs: spec's choice D27), with the
bound on steps of log 9. With a spent budget a run executes nothing and returns 0; a run with a positive budget that
returns has executed at least one instruction; a budget of 1 executes exactly one, whatever its cost (log 10). If
every step charges at least 1, a run returns within as many steps as the budget has units. -/
def Obligations.RunReturnsWithinBudget : Prop :=
  ∀ (c : CostModel) (budget : Int) (s : State),
    (∀ fuel, budget ≤ 0 →
        ∃ r, run c fuel budget s = some r ∧ r.state = s ∧ r.consumed budget = 0 ∧ r.outs = []) ∧
      (∀ fuel r, 1 ≤ budget → run c fuel budget s = some r → 1 ≤ r.outs.length) ∧
      (∀ fuel, ∃ r t, step s = .next t ∧ run c fuel 1 s = some r ∧ r.state = t ∧ r.outs = [t.out] ∧
        r.consumed 1 = stepCharge c s.opByteAtPc t.out) ∧
      ((∀ u v, step u = .next v → 1 ≤ stepCharge c u.opByteAtPc v.out) →
        ∃ r, run c budget.toNat budget s = some r ∧ r.outs.length ≤ budget.toNat)

/-- 70_reset_and_hazards.md section 4 (R331, derived by the spec): the loop of R128 with a positive budget, if it
returns, has consumed at least the budget, and at most the budget less one plus the largest charge of a step. The
host's run keeps both bounds, but for a budget of 1 whose one step charges nothing, which R311 ends (log 10). The
bound on steps: log 9. -/
def Obligations.RunOvershootBound : Prop :=
  ∀ (c : CostModel) (fuel : Nat) (budget : Int) (s : State) (r : RunResult) (maxStep : Nat),
    (∀ u v, step u = .next v → stepCharge c u.opByteAtPc v.out ≤ maxStep) → 1 ≤ budget →
      (runLoop c fuel budget s = some r → budget ≤ r.consumed budget ∧ r.consumed budget ≤ budget - 1 + maxStep) ∧
        (run c fuel budget s = some r →
          r.consumed budget ≤ budget - 1 + maxStep ∧
            (budget ≠ 1 ∨ (∀ t, step s = .next t → 1 ≤ stepCharge c s.opByteAtPc t.out) →
              budget ≤ r.consumed budget))

/-- 70_reset_and_hazards.md section 4 (R331, derived by the spec): the largest charge of one step: a base cost, plus
the most of 2 for a taken jump, the wait penalty, and 256 LLT steps. -/
def Obligations.StepChargeBound : Prop :=
  ∀ (c : CostModel) (maxCost : Nat) (s t : State), (∀ op, c.cost op ≤ maxCost) → step s = .next t →
    stepCharge c s.opByteAtPc t.out ≤ maxCost + max 2 (max c.waitPenalty (256 * c.lltStepCost))
end

