-- ==== Sys2Proof/Laws/Memory.lean ====
section
/-! SUPPORT. The basic laws of the sparse memories: a read after a write, and that every operation keeps the
canonical form. -/

namespace Sys2Proof.Machine

variable {α : Type}

@[simp] theorem cellAt?_nil (k : Nat) : cellAt? ([] : List (Nat × α)) k = none := rfl

theorem cellAt?_cons (k : Nat) (v : α) (m : List (Nat × α)) (x : Nat) :
    cellAt? ((k, v) :: m) x = if k = x then some v else cellAt? m x := rfl

/-! ### One write, one read -/

theorem cellAt?_putCell_same (m : List (Nat × α)) (x : Nat) (v : α) : cellAt? (putCell m x v) x = some v := by
  induction m with
  | nil => simp [putCell, cellAt?]
  | cons c m ih =>
    obtain ⟨k, y⟩ := c
    unfold putCell
    split
    · simp [cellAt?]
    · split
      · simp [cellAt?]
      · have hk : k ≠ x := by omega
        simp [cellAt?, hk, ih]

theorem cellAt?_putCell_other (m : List (Nat × α)) (v : α) {x y : Nat} (h : x ≠ y) :
    cellAt? (putCell m x v) y = cellAt? m y := by
  induction m with
  | nil => simp [putCell, cellAt?, h]
  | cons c m ih =>
    obtain ⟨k, w⟩ := c
    unfold putCell
    split
    · simp [cellAt?, h]
    · split
      · rename_i hk
        subst hk
        simp [cellAt?, h]
      · simp [cellAt?, ih]

theorem cellAt?_dropCell_other (m : List (Nat × α)) {x y : Nat} (h : x ≠ y) :
    cellAt? (dropCell m x) y = cellAt? m y := by
  induction m with
  | nil => rfl
  | cons c m ih =>
    obtain ⟨k, w⟩ := c
    unfold dropCell
    split
    · rename_i hk
      subst hk
      simp [cellAt?, h]
    · simp [cellAt?, ih]

/-! ### The canonical form -/

@[simp] theorem cellsWf_nil (limit : Nat) (keep : α → Bool) (lo : Nat) : cellsWf limit keep lo [] = true := rfl

theorem cellsWf_cons {limit : Nat} {keep : α → Bool} {lo k : Nat} {v : α} {m : List (Nat × α)} :
    cellsWf limit keep lo ((k, v) :: m) = true ↔
      lo ≤ k ∧ k < limit ∧ keep v = true ∧ cellsWf limit keep (k + 1) m = true := by
  simp [cellsWf, and_assoc]

/-- A canonical list from `lo` up is one from any lower bound. -/
theorem cellsWf_mono {limit : Nat} {keep : α → Bool} {lo lo' : Nat} {m : List (Nat × α)} (h : lo' ≤ lo)
    (hm : cellsWf limit keep lo m = true) : cellsWf limit keep lo' m = true := by
  cases m with
  | nil => rfl
  | cons c m =>
    obtain ⟨k, v⟩ := c
    rw [cellsWf_cons] at hm ⊢
    exact ⟨by omega, hm.2⟩

/-- A canonical list from `lo` up lists nothing below `lo`. -/
theorem cellAt?_below {limit : Nat} {keep : α → Bool} {lo x : Nat} {m : List (Nat × α)}
    (hm : cellsWf limit keep lo m = true) (h : x < lo) : cellAt? m x = none := by
  induction m generalizing lo with
  | nil => rfl
  | cons c m ih =>
    obtain ⟨k, v⟩ := c
    rw [cellsWf_cons] at hm
    have hk : k ≠ x := by omega
    rw [cellAt?_cons, if_neg hk]
    exact ih hm.2.2.2 (by omega)

theorem cellAt?_dropCell_same {limit : Nat} {keep : α → Bool} {lo : Nat} {m : List (Nat × α)}
    (hm : cellsWf limit keep lo m = true) (x : Nat) : cellAt? (dropCell m x) x = none := by
  induction m generalizing lo with
  | nil => rfl
  | cons c m ih =>
    obtain ⟨k, v⟩ := c
    rw [cellsWf_cons] at hm
    unfold dropCell
    split
    · rename_i hk
      subst hk
      exact cellAt?_below hm.2.2.2 (by omega)
    · rename_i hk
      rw [cellAt?_cons, if_neg hk]
      exact ih hm.2.2.2

theorem cellsWf_putCell {limit : Nat} {keep : α → Bool} {lo x : Nat} {v : α} {m : List (Nat × α)}
    (hm : cellsWf limit keep lo m = true) (hlo : lo ≤ x) (hx : x < limit) (hv : keep v = true) :
    cellsWf limit keep lo (putCell m x v) = true := by
  induction m generalizing lo with
  | nil => simp [putCell, cellsWf_cons, hlo, hx, hv]
  | cons c m ih =>
    obtain ⟨k, y⟩ := c
    have h := cellsWf_cons.1 hm
    unfold putCell
    split
    · rename_i hk
      exact cellsWf_cons.2 ⟨hlo, hx, hv, cellsWf_cons.2 ⟨by omega, h.2⟩⟩
    · split
      · rename_i hk
        subst hk
        exact cellsWf_cons.2 ⟨hlo, hx, hv, h.2.2.2⟩
      · exact cellsWf_cons.2 ⟨h.1, h.2.1, h.2.2.1, ih h.2.2.2 (by omega)⟩

theorem cellsWf_dropCell {limit : Nat} {keep : α → Bool} {lo : Nat} {m : List (Nat × α)}
    (hm : cellsWf limit keep lo m = true) (x : Nat) : cellsWf limit keep lo (dropCell m x) = true := by
  induction m generalizing lo with
  | nil => rfl
  | cons c m ih =>
    obtain ⟨k, y⟩ := c
    have h := cellsWf_cons.1 hm
    unfold dropCell
    split
    · exact cellsWf_mono (by omega) h.2.2.2
    · exact cellsWf_cons.2 ⟨h.1, h.2.1, h.2.2.1, ih h.2.2.2⟩

/-! ### RAM -/

/-- A RAM write keeps the canonical form. -/
theorem ramWf_ramWrite {m : Ram} (hm : ramWf m = true) (ea : Byte) (v : Word) : ramWf (ramWrite m ea v) = true := by
  unfold ramWrite
  split
  · exact cellsWf_dropCell hm _
  · rename_i hv
    exact cellsWf_putCell hm (Nat.zero_le _) ea.isLt (by simpa using hv)

/-- A RAM write is read back at its own cell. -/
theorem ramRead_ramWrite_same {m : Ram} (hm : ramWf m = true) (ea : Byte) (v : Word) :
    ramRead (ramWrite m ea v) ea = v := by
  unfold ramRead ramWrite
  split
  · rename_i hv
    rw [cellAt?_dropCell_same hm]
    exact hv.symm
  · rw [cellAt?_putCell_same]
    rfl

/-- A RAM write leaves every other cell alone, canonical form or not. -/
theorem ramRead_ramWrite_other (m : Ram) (v : Word) {ea x : Byte} (h : x ≠ ea) :
    ramRead (ramWrite m ea v) x = ramRead m x := by
  have h' : ea.toNat ≠ x.toNat := fun e => h (BitVec.eq_of_toNat_eq e.symm)
  unfold ramRead ramWrite
  split
  · rw [cellAt?_dropCell_other _ h']
  · rw [cellAt?_putCell_other _ _ h']

/-- The RAM of a snapshot is canonical. -/
theorem cellsWf_ramOfCells (limit addr : Nat) (cells : List Nat) (h : addr + cells.length ≤ limit) :
    cellsWf limit (fun v : Word => decide (v ≠ 0)) addr (ramOfCells addr cells) = true := by
  induction cells generalizing addr with
  | nil => rfl
  | cons c cells ih =>
    rw [List.length_cons] at h
    unfold ramOfCells
    split
    · exact cellsWf_mono (Nat.le_succ addr) (ih (addr + 1) (by omega))
    · rename_i hc
      exact cellsWf_cons.2 ⟨Nat.le_refl _, by omega, by simpa using hc, ih (addr + 1) (by omega)⟩

theorem ramWf_setState (x : Snapshot) (s : State) : ramWf (s.setState x).ram = true :=
  cellsWf_ramOfCells 256 0 _ (by simp)

/-! ### Program storage -/

/-- Storing a program byte keeps the canonical form. -/
theorem programWf_programWrite {m : ProgramStore} (hm : programWf m = true) (x : Addr) (v : Byte) :
    programWf (programWrite m x v) = true :=
  cellsWf_putCell hm (Nat.zero_le _) x.isLt rfl

/-- A stored program byte is what Fetch answers at its address. -/
theorem programByte_storeProgram_same (s : State) (x : Addr) (v : Byte) :
    (s.storeProgram x v).programByte x = v := by
  simp [State.programByte, State.storeProgram, programWrite, cellAt?_putCell_same]

/-- Storing a program byte leaves every other address alone. -/
theorem programByte_storeProgram_other (s : State) (v : Byte) {x y : Addr} (h : y ≠ x) :
    (s.storeProgram x v).programByte y = s.programByte y := by
  have h' : x.toNat ≠ y.toNat := fun e => h (BitVec.eq_of_toNat_eq e.symm)
  simp [State.programByte, State.storeProgram, programWrite, cellAt?_putCell_other _ _ h']

/-! ### Both memories of a state -/

theorem memoryWf_iff (ram : Ram) (prog : ProgramStore) :
    Memory.wf ram prog = true ↔ ramWf ram = true ∧ programWf prog = true := by
  simp [Memory.wf]

/-- Every memory operation of the model keeps `Memory.wf`: a RAM write, a program store, a host reset and the
loading of a snapshot. -/
theorem memoryWf_ops {s : State} (h : Memory.wf s.ram s.prog = true) (ea : Byte) (v : Word) (x : Addr) (w : Byte)
    (snap : Snapshot) :
    Memory.wf (s.writeRam ea v).ram (s.writeRam ea v).prog = true ∧
      Memory.wf (s.storeProgram x w).ram (s.storeProgram x w).prog = true ∧
      Memory.wf s.hostReset.ram s.hostReset.prog = true ∧
      Memory.wf (s.setState snap).ram (s.setState snap).prog = true := by
  rw [memoryWf_iff] at h
  refine ⟨(memoryWf_iff _ _).2 ⟨ramWf_ramWrite h.1 ea v, h.2⟩,
    (memoryWf_iff _ _).2 ⟨h.1, programWf_programWrite h.2 x w⟩, (memoryWf_iff _ _).2 ⟨rfl, h.2⟩,
    (memoryWf_iff _ _).2 ⟨ramWf_setState snap s, h.2⟩⟩

/-- The memories after reset have the canonical form. -/
theorem memoryWf_reset : Memory.wf State.reset.ram State.reset.prog = true := rfl

end Sys2Proof.Machine
end

