-- ==== Sys2Proof/Laws/State.lean ====
section
/-! SUPPORT. For each update of `State` in Machine/Ops.lean, one lemma per field (and per read that the update does not
touch): what the field is after it. All hold by definition. -/

namespace Sys2Proof.Machine

variable (s : State)

/-! ### State.setDs -/

@[simp] theorem setDs_pc (d : DispatchState) : (s.setDs d).pc = s.pc := rfl
@[simp] theorem setDs_a (d : DispatchState) : (s.setDs d).a = s.a := rfl
@[simp] theorem setDs_b (d : DispatchState) : (s.setDs d).b = s.b := rfl
@[simp] theorem setDs_i (d : DispatchState) : (s.setDs d).i = s.i := rfl
@[simp] theorem setDs_j (d : DispatchState) : (s.setDs d).j = s.j := rfl
@[simp] theorem setDs_p (d : DispatchState) : (s.setDs d).p = s.p := rfl
@[simp] theorem setDs_t (d : DispatchState) : (s.setDs d).t = s.t := rfl
@[simp] theorem setDs_fromX (d : DispatchState) : (s.setDs d).fromX = s.fromX := rfl
@[simp] theorem setDs_fromY (d : DispatchState) : (s.setDs d).fromY = s.fromY := rfl
@[simp] theorem setDs_vgColour (d : DispatchState) : (s.setDs d).vgColour = s.vgColour := rfl
@[simp] theorem setDs_vgShiftLength (d : DispatchState) : (s.setDs d).vgShiftLength = s.vgShiftLength := rfl
@[simp] theorem setDs_cmpOld (d : DispatchState) : (s.setDs d).cmpOld = s.cmpOld := rfl
@[simp] theorem setDs_cmpNew (d : DispatchState) : (s.setDs d).cmpNew = s.cmpNew := rfl
@[simp] theorem setDs_accA0 (d : DispatchState) : (s.setDs d).accA0 = s.accA0 := rfl
@[simp] theorem setDs_carry (d : DispatchState) : (s.setDs d).carry = s.carry := rfl
@[simp] theorem setDs_ds (d : DispatchState) : (s.setDs d).ds = d := rfl
@[simp] theorem setDs_ram (d : DispatchState) : (s.setDs d).ram = s.ram := rfl
@[simp] theorem setDs_jumpPolarity (d : DispatchState) : (s.setDs d).jumpPolarity = s.jumpPolarity := rfl
@[simp] theorem setDs_addressSpaceSize (d : DispatchState) : (s.setDs d).addressSpaceSize = s.addressSpaceSize := rfl
@[simp] theorem setDs_monitorMode (d : DispatchState) : (s.setDs d).monitorMode = s.monitorMode := rfl
@[simp] theorem setDs_placeholders (d : DispatchState) : (s.setDs d).placeholders = s.placeholders := rfl
@[simp] theorem setDs_colour64 (d : DispatchState) : (s.setDs d).colour64 = s.colour64 := rfl
@[simp] theorem setDs_colourGame (d : DispatchState) : (s.setDs d).colourGame = s.colourGame := rfl
@[simp] theorem setDs_prog (d : DispatchState) : (s.setDs d).prog = s.prog := rfl
@[simp] theorem setDs_portIn (d : DispatchState) : (s.setDs d).portIn = s.portIn := rfl
@[simp] theorem setDs_portReads (d : DispatchState) : (s.setDs d).portReads = s.portReads := rfl
@[simp] theorem setDs_out (d : DispatchState) : (s.setDs d).out = s.out := rfl
@[simp] theorem setDs_readRam (d : DispatchState) (ea' : Byte) : (s.setDs d).readRam ea' = s.readRam ea' := rfl
@[simp] theorem setDs_programByte (d : DispatchState) (at' : Addr) : (s.setDs d).programByte at' = s.programByte at' := rfl
@[simp] theorem setDs_portAnswer (d : DispatchState) : (s.setDs d).portAnswer = s.portAnswer := rfl
@[simp] theorem setDs_cellAtI (d : DispatchState) : (s.setDs d).cellAtI = s.cellAtI := rfl

/-! ### State.setAcc -/

@[simp] theorem setAcc_pc (v : Word) : (s.setAcc v).pc = s.pc := rfl
@[simp] theorem setAcc_a (v : Word) : (s.setAcc v).a = if s.ds.onB then s.a else v := rfl
@[simp] theorem setAcc_b (v : Word) : (s.setAcc v).b = if s.ds.onB then v else s.b := rfl
@[simp] theorem setAcc_i (v : Word) : (s.setAcc v).i = s.i := rfl
@[simp] theorem setAcc_j (v : Word) : (s.setAcc v).j = s.j := rfl
@[simp] theorem setAcc_p (v : Word) : (s.setAcc v).p = s.p := rfl
@[simp] theorem setAcc_t (v : Word) : (s.setAcc v).t = s.t := rfl
@[simp] theorem setAcc_fromX (v : Word) : (s.setAcc v).fromX = s.fromX := rfl
@[simp] theorem setAcc_fromY (v : Word) : (s.setAcc v).fromY = s.fromY := rfl
@[simp] theorem setAcc_vgColour (v : Word) : (s.setAcc v).vgColour = s.vgColour := rfl
@[simp] theorem setAcc_vgShiftLength (v : Word) : (s.setAcc v).vgShiftLength = s.vgShiftLength := rfl
@[simp] theorem setAcc_cmpOld (v : Word) : (s.setAcc v).cmpOld = s.cmpOld := rfl
@[simp] theorem setAcc_cmpNew (v : Word) : (s.setAcc v).cmpNew = s.cmpNew := rfl
@[simp] theorem setAcc_accA0 (v : Word) : (s.setAcc v).accA0 = s.accA0 := rfl
@[simp] theorem setAcc_carry (v : Word) : (s.setAcc v).carry = s.carry := rfl
@[simp] theorem setAcc_ds (v : Word) : (s.setAcc v).ds = s.ds := rfl
@[simp] theorem setAcc_ram (v : Word) : (s.setAcc v).ram = s.ram := rfl
@[simp] theorem setAcc_jumpPolarity (v : Word) : (s.setAcc v).jumpPolarity = s.jumpPolarity := rfl
@[simp] theorem setAcc_addressSpaceSize (v : Word) : (s.setAcc v).addressSpaceSize = s.addressSpaceSize := rfl
@[simp] theorem setAcc_monitorMode (v : Word) : (s.setAcc v).monitorMode = s.monitorMode := rfl
@[simp] theorem setAcc_placeholders (v : Word) : (s.setAcc v).placeholders = s.placeholders := rfl
@[simp] theorem setAcc_colour64 (v : Word) : (s.setAcc v).colour64 = s.colour64 := rfl
@[simp] theorem setAcc_colourGame (v : Word) : (s.setAcc v).colourGame = s.colourGame := rfl
@[simp] theorem setAcc_prog (v : Word) : (s.setAcc v).prog = s.prog := rfl
@[simp] theorem setAcc_portIn (v : Word) : (s.setAcc v).portIn = s.portIn := rfl
@[simp] theorem setAcc_portReads (v : Word) : (s.setAcc v).portReads = s.portReads := rfl
@[simp] theorem setAcc_out (v : Word) : (s.setAcc v).out = s.out := rfl
@[simp] theorem setAcc_readRam (v : Word) (ea' : Byte) : (s.setAcc v).readRam ea' = s.readRam ea' := rfl
@[simp] theorem setAcc_programByte (v : Word) (at' : Addr) : (s.setAcc v).programByte at' = s.programByte at' := rfl
@[simp] theorem setAcc_portAnswer (v : Word) : (s.setAcc v).portAnswer = s.portAnswer := rfl
@[simp] theorem setAcc_cellAtI (v : Word) : (s.setAcc v).cellAtI = s.cellAtI := rfl
@[simp] theorem setAcc_isPlaceholder (v : Word) (op' : Byte) : (s.setAcc v).isPlaceholder op' = s.isPlaceholder op' := rfl

/-! ### State.setAB -/

@[simp] theorem setAB_pc (x y : Word) : (s.setAB x y).pc = s.pc := rfl
@[simp] theorem setAB_a (x y : Word) : (s.setAB x y).a = x := rfl
@[simp] theorem setAB_b (x y : Word) : (s.setAB x y).b = y := rfl
@[simp] theorem setAB_i (x y : Word) : (s.setAB x y).i = s.i := rfl
@[simp] theorem setAB_j (x y : Word) : (s.setAB x y).j = s.j := rfl
@[simp] theorem setAB_p (x y : Word) : (s.setAB x y).p = s.p := rfl
@[simp] theorem setAB_t (x y : Word) : (s.setAB x y).t = s.t := rfl
@[simp] theorem setAB_fromX (x y : Word) : (s.setAB x y).fromX = s.fromX := rfl
@[simp] theorem setAB_fromY (x y : Word) : (s.setAB x y).fromY = s.fromY := rfl
@[simp] theorem setAB_vgColour (x y : Word) : (s.setAB x y).vgColour = s.vgColour := rfl
@[simp] theorem setAB_vgShiftLength (x y : Word) : (s.setAB x y).vgShiftLength = s.vgShiftLength := rfl
@[simp] theorem setAB_cmpOld (x y : Word) : (s.setAB x y).cmpOld = s.cmpOld := rfl
@[simp] theorem setAB_cmpNew (x y : Word) : (s.setAB x y).cmpNew = s.cmpNew := rfl
@[simp] theorem setAB_accA0 (x y : Word) : (s.setAB x y).accA0 = s.accA0 := rfl
@[simp] theorem setAB_carry (x y : Word) : (s.setAB x y).carry = s.carry := rfl
@[simp] theorem setAB_ds (x y : Word) : (s.setAB x y).ds = s.ds := rfl
@[simp] theorem setAB_ram (x y : Word) : (s.setAB x y).ram = s.ram := rfl
@[simp] theorem setAB_jumpPolarity (x y : Word) : (s.setAB x y).jumpPolarity = s.jumpPolarity := rfl
@[simp] theorem setAB_addressSpaceSize (x y : Word) : (s.setAB x y).addressSpaceSize = s.addressSpaceSize := rfl
@[simp] theorem setAB_monitorMode (x y : Word) : (s.setAB x y).monitorMode = s.monitorMode := rfl
@[simp] theorem setAB_placeholders (x y : Word) : (s.setAB x y).placeholders = s.placeholders := rfl
@[simp] theorem setAB_colour64 (x y : Word) : (s.setAB x y).colour64 = s.colour64 := rfl
@[simp] theorem setAB_colourGame (x y : Word) : (s.setAB x y).colourGame = s.colourGame := rfl
@[simp] theorem setAB_prog (x y : Word) : (s.setAB x y).prog = s.prog := rfl
@[simp] theorem setAB_portIn (x y : Word) : (s.setAB x y).portIn = s.portIn := rfl
@[simp] theorem setAB_portReads (x y : Word) : (s.setAB x y).portReads = s.portReads := rfl
@[simp] theorem setAB_out (x y : Word) : (s.setAB x y).out = s.out := rfl
@[simp] theorem setAB_readRam (x y : Word) (ea' : Byte) : (s.setAB x y).readRam ea' = s.readRam ea' := rfl
@[simp] theorem setAB_programByte (x y : Word) (at' : Addr) : (s.setAB x y).programByte at' = s.programByte at' := rfl
@[simp] theorem setAB_portAnswer (x y : Word) : (s.setAB x y).portAnswer = s.portAnswer := rfl
@[simp] theorem setAB_cellAtI (x y : Word) : (s.setAB x y).cellAtI = s.cellAtI := rfl
@[simp] theorem setAB_isPlaceholder (x y : Word) (op' : Byte) : (s.setAB x y).isPlaceholder op' = s.isPlaceholder op' := rfl

/-! ### State.setI -/

@[simp] theorem setI_pc (ea : Byte) : (s.setI ea).pc = s.pc := rfl
@[simp] theorem setI_a (ea : Byte) : (s.setI ea).a = s.a := rfl
@[simp] theorem setI_b (ea : Byte) : (s.setI ea).b = s.b := rfl
@[simp] theorem setI_i (ea : Byte) : (s.setI ea).i = ea := rfl
@[simp] theorem setI_j (ea : Byte) : (s.setI ea).j = s.j := rfl
@[simp] theorem setI_p (ea : Byte) : (s.setI ea).p = s.p := rfl
@[simp] theorem setI_t (ea : Byte) : (s.setI ea).t = s.t := rfl
@[simp] theorem setI_fromX (ea : Byte) : (s.setI ea).fromX = s.fromX := rfl
@[simp] theorem setI_fromY (ea : Byte) : (s.setI ea).fromY = s.fromY := rfl
@[simp] theorem setI_vgColour (ea : Byte) : (s.setI ea).vgColour = s.vgColour := rfl
@[simp] theorem setI_vgShiftLength (ea : Byte) : (s.setI ea).vgShiftLength = s.vgShiftLength := rfl
@[simp] theorem setI_cmpOld (ea : Byte) : (s.setI ea).cmpOld = s.cmpOld := rfl
@[simp] theorem setI_cmpNew (ea : Byte) : (s.setI ea).cmpNew = s.cmpNew := rfl
@[simp] theorem setI_accA0 (ea : Byte) : (s.setI ea).accA0 = s.accA0 := rfl
@[simp] theorem setI_carry (ea : Byte) : (s.setI ea).carry = s.carry := rfl
@[simp] theorem setI_ds (ea : Byte) : (s.setI ea).ds = s.ds := rfl
@[simp] theorem setI_ram (ea : Byte) : (s.setI ea).ram = s.ram := rfl
@[simp] theorem setI_jumpPolarity (ea : Byte) : (s.setI ea).jumpPolarity = s.jumpPolarity := rfl
@[simp] theorem setI_addressSpaceSize (ea : Byte) : (s.setI ea).addressSpaceSize = s.addressSpaceSize := rfl
@[simp] theorem setI_monitorMode (ea : Byte) : (s.setI ea).monitorMode = s.monitorMode := rfl
@[simp] theorem setI_placeholders (ea : Byte) : (s.setI ea).placeholders = s.placeholders := rfl
@[simp] theorem setI_colour64 (ea : Byte) : (s.setI ea).colour64 = s.colour64 := rfl
@[simp] theorem setI_colourGame (ea : Byte) : (s.setI ea).colourGame = s.colourGame := rfl
@[simp] theorem setI_prog (ea : Byte) : (s.setI ea).prog = s.prog := rfl
@[simp] theorem setI_portIn (ea : Byte) : (s.setI ea).portIn = s.portIn := rfl
@[simp] theorem setI_portReads (ea : Byte) : (s.setI ea).portReads = s.portReads := rfl
@[simp] theorem setI_out (ea : Byte) : (s.setI ea).out = s.out := rfl
@[simp] theorem setI_acc (ea : Byte) : (s.setI ea).acc = s.acc := rfl
@[simp] theorem setI_readRam (ea : Byte) (ea' : Byte) : (s.setI ea).readRam ea' = s.readRam ea' := rfl
@[simp] theorem setI_programByte (ea : Byte) (at' : Addr) : (s.setI ea).programByte at' = s.programByte at' := rfl
@[simp] theorem setI_portAnswer (ea : Byte) : (s.setI ea).portAnswer = s.portAnswer := rfl
@[simp] theorem setI_isPlaceholder (ea : Byte) (op' : Byte) : (s.setI ea).isPlaceholder op' = s.isPlaceholder op' := rfl

/-! ### State.setJ -/

@[simp] theorem setJ_pc (x : Word) : (s.setJ x).pc = s.pc := rfl
@[simp] theorem setJ_a (x : Word) : (s.setJ x).a = s.a := rfl
@[simp] theorem setJ_b (x : Word) : (s.setJ x).b = s.b := rfl
@[simp] theorem setJ_i (x : Word) : (s.setJ x).i = s.i := rfl
@[simp] theorem setJ_j (x : Word) : (s.setJ x).j = x := rfl
@[simp] theorem setJ_p (x : Word) : (s.setJ x).p = s.p := rfl
@[simp] theorem setJ_t (x : Word) : (s.setJ x).t = s.t := rfl
@[simp] theorem setJ_fromX (x : Word) : (s.setJ x).fromX = s.fromX := rfl
@[simp] theorem setJ_fromY (x : Word) : (s.setJ x).fromY = s.fromY := rfl
@[simp] theorem setJ_vgColour (x : Word) : (s.setJ x).vgColour = s.vgColour := rfl
@[simp] theorem setJ_vgShiftLength (x : Word) : (s.setJ x).vgShiftLength = s.vgShiftLength := rfl
@[simp] theorem setJ_cmpOld (x : Word) : (s.setJ x).cmpOld = s.cmpOld := rfl
@[simp] theorem setJ_cmpNew (x : Word) : (s.setJ x).cmpNew = s.cmpNew := rfl
@[simp] theorem setJ_accA0 (x : Word) : (s.setJ x).accA0 = s.accA0 := rfl
@[simp] theorem setJ_carry (x : Word) : (s.setJ x).carry = s.carry := rfl
@[simp] theorem setJ_ds (x : Word) : (s.setJ x).ds = s.ds := rfl
@[simp] theorem setJ_ram (x : Word) : (s.setJ x).ram = s.ram := rfl
@[simp] theorem setJ_jumpPolarity (x : Word) : (s.setJ x).jumpPolarity = s.jumpPolarity := rfl
@[simp] theorem setJ_addressSpaceSize (x : Word) : (s.setJ x).addressSpaceSize = s.addressSpaceSize := rfl
@[simp] theorem setJ_monitorMode (x : Word) : (s.setJ x).monitorMode = s.monitorMode := rfl
@[simp] theorem setJ_placeholders (x : Word) : (s.setJ x).placeholders = s.placeholders := rfl
@[simp] theorem setJ_colour64 (x : Word) : (s.setJ x).colour64 = s.colour64 := rfl
@[simp] theorem setJ_colourGame (x : Word) : (s.setJ x).colourGame = s.colourGame := rfl
@[simp] theorem setJ_prog (x : Word) : (s.setJ x).prog = s.prog := rfl
@[simp] theorem setJ_portIn (x : Word) : (s.setJ x).portIn = s.portIn := rfl
@[simp] theorem setJ_portReads (x : Word) : (s.setJ x).portReads = s.portReads := rfl
@[simp] theorem setJ_out (x : Word) : (s.setJ x).out = s.out := rfl
@[simp] theorem setJ_acc (x : Word) : (s.setJ x).acc = s.acc := rfl
@[simp] theorem setJ_readRam (x : Word) (ea' : Byte) : (s.setJ x).readRam ea' = s.readRam ea' := rfl
@[simp] theorem setJ_programByte (x : Word) (at' : Addr) : (s.setJ x).programByte at' = s.programByte at' := rfl
@[simp] theorem setJ_portAnswer (x : Word) : (s.setJ x).portAnswer = s.portAnswer := rfl
@[simp] theorem setJ_cellAtI (x : Word) : (s.setJ x).cellAtI = s.cellAtI := rfl
@[simp] theorem setJ_isPlaceholder (x : Word) (op' : Byte) : (s.setJ x).isPlaceholder op' = s.isPlaceholder op' := rfl

/-! ### State.setP -/

@[simp] theorem setP_pc (n : BitVec 4) : (s.setP n).pc = s.pc := rfl
@[simp] theorem setP_a (n : BitVec 4) : (s.setP n).a = s.a := rfl
@[simp] theorem setP_b (n : BitVec 4) : (s.setP n).b = s.b := rfl
@[simp] theorem setP_i (n : BitVec 4) : (s.setP n).i = s.i := rfl
@[simp] theorem setP_j (n : BitVec 4) : (s.setP n).j = s.j := rfl
@[simp] theorem setP_p (n : BitVec 4) : (s.setP n).p = n := rfl
@[simp] theorem setP_t (n : BitVec 4) : (s.setP n).t = s.t := rfl
@[simp] theorem setP_fromX (n : BitVec 4) : (s.setP n).fromX = s.fromX := rfl
@[simp] theorem setP_fromY (n : BitVec 4) : (s.setP n).fromY = s.fromY := rfl
@[simp] theorem setP_vgColour (n : BitVec 4) : (s.setP n).vgColour = s.vgColour := rfl
@[simp] theorem setP_vgShiftLength (n : BitVec 4) : (s.setP n).vgShiftLength = s.vgShiftLength := rfl
@[simp] theorem setP_cmpOld (n : BitVec 4) : (s.setP n).cmpOld = s.cmpOld := rfl
@[simp] theorem setP_cmpNew (n : BitVec 4) : (s.setP n).cmpNew = s.cmpNew := rfl
@[simp] theorem setP_accA0 (n : BitVec 4) : (s.setP n).accA0 = s.accA0 := rfl
@[simp] theorem setP_carry (n : BitVec 4) : (s.setP n).carry = s.carry := rfl
@[simp] theorem setP_ds (n : BitVec 4) : (s.setP n).ds = s.ds := rfl
@[simp] theorem setP_ram (n : BitVec 4) : (s.setP n).ram = s.ram := rfl
@[simp] theorem setP_jumpPolarity (n : BitVec 4) : (s.setP n).jumpPolarity = s.jumpPolarity := rfl
@[simp] theorem setP_addressSpaceSize (n : BitVec 4) : (s.setP n).addressSpaceSize = s.addressSpaceSize := rfl
@[simp] theorem setP_monitorMode (n : BitVec 4) : (s.setP n).monitorMode = s.monitorMode := rfl
@[simp] theorem setP_placeholders (n : BitVec 4) : (s.setP n).placeholders = s.placeholders := rfl
@[simp] theorem setP_colour64 (n : BitVec 4) : (s.setP n).colour64 = s.colour64 := rfl
@[simp] theorem setP_colourGame (n : BitVec 4) : (s.setP n).colourGame = s.colourGame := rfl
@[simp] theorem setP_prog (n : BitVec 4) : (s.setP n).prog = s.prog := rfl
@[simp] theorem setP_portIn (n : BitVec 4) : (s.setP n).portIn = s.portIn := rfl
@[simp] theorem setP_portReads (n : BitVec 4) : (s.setP n).portReads = s.portReads := rfl
@[simp] theorem setP_out (n : BitVec 4) : (s.setP n).out = s.out := rfl
@[simp] theorem setP_acc (n : BitVec 4) : (s.setP n).acc = s.acc := rfl
@[simp] theorem setP_readRam (n : BitVec 4) (ea' : Byte) : (s.setP n).readRam ea' = s.readRam ea' := rfl
@[simp] theorem setP_programByte (n : BitVec 4) (at' : Addr) : (s.setP n).programByte at' = s.programByte at' := rfl
@[simp] theorem setP_portAnswer (n : BitVec 4) : (s.setP n).portAnswer = s.portAnswer := rfl
@[simp] theorem setP_cellAtI (n : BitVec 4) : (s.setP n).cellAtI = s.cellAtI := rfl
@[simp] theorem setP_isPlaceholder (n : BitVec 4) (op' : Byte) : (s.setP n).isPlaceholder op' = s.isPlaceholder op' := rfl

/-! ### State.setFrom -/

@[simp] theorem setFrom_pc (x y : Word) : (s.setFrom x y).pc = s.pc := rfl
@[simp] theorem setFrom_a (x y : Word) : (s.setFrom x y).a = s.a := rfl
@[simp] theorem setFrom_b (x y : Word) : (s.setFrom x y).b = s.b := rfl
@[simp] theorem setFrom_i (x y : Word) : (s.setFrom x y).i = s.i := rfl
@[simp] theorem setFrom_j (x y : Word) : (s.setFrom x y).j = s.j := rfl
@[simp] theorem setFrom_p (x y : Word) : (s.setFrom x y).p = s.p := rfl
@[simp] theorem setFrom_t (x y : Word) : (s.setFrom x y).t = s.t := rfl
@[simp] theorem setFrom_fromX (x y : Word) : (s.setFrom x y).fromX = x := rfl
@[simp] theorem setFrom_fromY (x y : Word) : (s.setFrom x y).fromY = y := rfl
@[simp] theorem setFrom_vgColour (x y : Word) : (s.setFrom x y).vgColour = s.vgColour := rfl
@[simp] theorem setFrom_vgShiftLength (x y : Word) : (s.setFrom x y).vgShiftLength = s.vgShiftLength := rfl
@[simp] theorem setFrom_cmpOld (x y : Word) : (s.setFrom x y).cmpOld = s.cmpOld := rfl
@[simp] theorem setFrom_cmpNew (x y : Word) : (s.setFrom x y).cmpNew = s.cmpNew := rfl
@[simp] theorem setFrom_accA0 (x y : Word) : (s.setFrom x y).accA0 = s.accA0 := rfl
@[simp] theorem setFrom_carry (x y : Word) : (s.setFrom x y).carry = s.carry := rfl
@[simp] theorem setFrom_ds (x y : Word) : (s.setFrom x y).ds = s.ds := rfl
@[simp] theorem setFrom_ram (x y : Word) : (s.setFrom x y).ram = s.ram := rfl
@[simp] theorem setFrom_jumpPolarity (x y : Word) : (s.setFrom x y).jumpPolarity = s.jumpPolarity := rfl
@[simp] theorem setFrom_addressSpaceSize (x y : Word) : (s.setFrom x y).addressSpaceSize = s.addressSpaceSize := rfl
@[simp] theorem setFrom_monitorMode (x y : Word) : (s.setFrom x y).monitorMode = s.monitorMode := rfl
@[simp] theorem setFrom_placeholders (x y : Word) : (s.setFrom x y).placeholders = s.placeholders := rfl
@[simp] theorem setFrom_colour64 (x y : Word) : (s.setFrom x y).colour64 = s.colour64 := rfl
@[simp] theorem setFrom_colourGame (x y : Word) : (s.setFrom x y).colourGame = s.colourGame := rfl
@[simp] theorem setFrom_prog (x y : Word) : (s.setFrom x y).prog = s.prog := rfl
@[simp] theorem setFrom_portIn (x y : Word) : (s.setFrom x y).portIn = s.portIn := rfl
@[simp] theorem setFrom_portReads (x y : Word) : (s.setFrom x y).portReads = s.portReads := rfl
@[simp] theorem setFrom_out (x y : Word) : (s.setFrom x y).out = s.out := rfl
@[simp] theorem setFrom_acc (x y : Word) : (s.setFrom x y).acc = s.acc := rfl
@[simp] theorem setFrom_readRam (x y : Word) (ea' : Byte) : (s.setFrom x y).readRam ea' = s.readRam ea' := rfl
@[simp] theorem setFrom_programByte (x y : Word) (at' : Addr) : (s.setFrom x y).programByte at' = s.programByte at' := rfl
@[simp] theorem setFrom_portAnswer (x y : Word) : (s.setFrom x y).portAnswer = s.portAnswer := rfl
@[simp] theorem setFrom_cellAtI (x y : Word) : (s.setFrom x y).cellAtI = s.cellAtI := rfl
@[simp] theorem setFrom_isPlaceholder (x y : Word) (op' : Byte) : (s.setFrom x y).isPlaceholder op' = s.isPlaceholder op' := rfl

/-! ### State.setColour -/

@[simp] theorem setColour_pc (c : Byte) : (s.setColour c).pc = s.pc := rfl
@[simp] theorem setColour_a (c : Byte) : (s.setColour c).a = s.a := rfl
@[simp] theorem setColour_b (c : Byte) : (s.setColour c).b = s.b := rfl
@[simp] theorem setColour_i (c : Byte) : (s.setColour c).i = s.i := rfl
@[simp] theorem setColour_j (c : Byte) : (s.setColour c).j = s.j := rfl
@[simp] theorem setColour_p (c : Byte) : (s.setColour c).p = s.p := rfl
@[simp] theorem setColour_t (c : Byte) : (s.setColour c).t = s.t := rfl
@[simp] theorem setColour_fromX (c : Byte) : (s.setColour c).fromX = s.fromX := rfl
@[simp] theorem setColour_fromY (c : Byte) : (s.setColour c).fromY = s.fromY := rfl
@[simp] theorem setColour_vgColour (c : Byte) : (s.setColour c).vgColour = c := rfl
@[simp] theorem setColour_vgShiftLength (c : Byte) : (s.setColour c).vgShiftLength = s.vgShiftLength := rfl
@[simp] theorem setColour_cmpOld (c : Byte) : (s.setColour c).cmpOld = s.cmpOld := rfl
@[simp] theorem setColour_cmpNew (c : Byte) : (s.setColour c).cmpNew = s.cmpNew := rfl
@[simp] theorem setColour_accA0 (c : Byte) : (s.setColour c).accA0 = s.accA0 := rfl
@[simp] theorem setColour_carry (c : Byte) : (s.setColour c).carry = s.carry := rfl
@[simp] theorem setColour_ds (c : Byte) : (s.setColour c).ds = s.ds := rfl
@[simp] theorem setColour_ram (c : Byte) : (s.setColour c).ram = s.ram := rfl
@[simp] theorem setColour_jumpPolarity (c : Byte) : (s.setColour c).jumpPolarity = s.jumpPolarity := rfl
@[simp] theorem setColour_addressSpaceSize (c : Byte) : (s.setColour c).addressSpaceSize = s.addressSpaceSize := rfl
@[simp] theorem setColour_monitorMode (c : Byte) : (s.setColour c).monitorMode = s.monitorMode := rfl
@[simp] theorem setColour_placeholders (c : Byte) : (s.setColour c).placeholders = s.placeholders := rfl
@[simp] theorem setColour_colour64 (c : Byte) : (s.setColour c).colour64 = s.colour64 := rfl
@[simp] theorem setColour_colourGame (c : Byte) : (s.setColour c).colourGame = s.colourGame := rfl
@[simp] theorem setColour_prog (c : Byte) : (s.setColour c).prog = s.prog := rfl
@[simp] theorem setColour_portIn (c : Byte) : (s.setColour c).portIn = s.portIn := rfl
@[simp] theorem setColour_portReads (c : Byte) : (s.setColour c).portReads = s.portReads := rfl
@[simp] theorem setColour_out (c : Byte) : (s.setColour c).out = s.out := rfl
@[simp] theorem setColour_acc (c : Byte) : (s.setColour c).acc = s.acc := rfl
@[simp] theorem setColour_readRam (c : Byte) (ea' : Byte) : (s.setColour c).readRam ea' = s.readRam ea' := rfl
@[simp] theorem setColour_programByte (c : Byte) (at' : Addr) : (s.setColour c).programByte at' = s.programByte at' := rfl
@[simp] theorem setColour_portAnswer (c : Byte) : (s.setColour c).portAnswer = s.portAnswer := rfl
@[simp] theorem setColour_cellAtI (c : Byte) : (s.setColour c).cellAtI = s.cellAtI := rfl
@[simp] theorem setColour_isPlaceholder (c : Byte) (op' : Byte) : (s.setColour c).isPlaceholder op' = s.isPlaceholder op' := rfl

/-! ### State.setShiftLength -/

@[simp] theorem setShiftLength_pc (n : Byte) (k : Nat) : (s.setShiftLength n k).pc = s.pc := rfl
@[simp] theorem setShiftLength_a (n : Byte) (k : Nat) : (s.setShiftLength n k).a = s.a := rfl
@[simp] theorem setShiftLength_b (n : Byte) (k : Nat) : (s.setShiftLength n k).b = s.b := rfl
@[simp] theorem setShiftLength_i (n : Byte) (k : Nat) : (s.setShiftLength n k).i = s.i := rfl
@[simp] theorem setShiftLength_j (n : Byte) (k : Nat) : (s.setShiftLength n k).j = s.j := rfl
@[simp] theorem setShiftLength_p (n : Byte) (k : Nat) : (s.setShiftLength n k).p = s.p := rfl
@[simp] theorem setShiftLength_t (n : Byte) (k : Nat) : (s.setShiftLength n k).t = s.t := rfl
@[simp] theorem setShiftLength_fromX (n : Byte) (k : Nat) : (s.setShiftLength n k).fromX = s.fromX := rfl
@[simp] theorem setShiftLength_fromY (n : Byte) (k : Nat) : (s.setShiftLength n k).fromY = s.fromY := rfl
@[simp] theorem setShiftLength_vgColour (n : Byte) (k : Nat) : (s.setShiftLength n k).vgColour = s.vgColour := rfl
@[simp] theorem setShiftLength_vgShiftLength (n : Byte) (k : Nat) : (s.setShiftLength n k).vgShiftLength = n := rfl
@[simp] theorem setShiftLength_cmpOld (n : Byte) (k : Nat) : (s.setShiftLength n k).cmpOld = s.cmpOld := rfl
@[simp] theorem setShiftLength_cmpNew (n : Byte) (k : Nat) : (s.setShiftLength n k).cmpNew = s.cmpNew := rfl
@[simp] theorem setShiftLength_accA0 (n : Byte) (k : Nat) : (s.setShiftLength n k).accA0 = s.accA0 := rfl
@[simp] theorem setShiftLength_carry (n : Byte) (k : Nat) : (s.setShiftLength n k).carry = s.carry := rfl
@[simp] theorem setShiftLength_ds (n : Byte) (k : Nat) : (s.setShiftLength n k).ds = s.ds := rfl
@[simp] theorem setShiftLength_ram (n : Byte) (k : Nat) : (s.setShiftLength n k).ram = s.ram := rfl
@[simp] theorem setShiftLength_jumpPolarity (n : Byte) (k : Nat) : (s.setShiftLength n k).jumpPolarity = s.jumpPolarity := rfl
@[simp] theorem setShiftLength_addressSpaceSize (n : Byte) (k : Nat) : (s.setShiftLength n k).addressSpaceSize = s.addressSpaceSize := rfl
@[simp] theorem setShiftLength_monitorMode (n : Byte) (k : Nat) : (s.setShiftLength n k).monitorMode = s.monitorMode := rfl
@[simp] theorem setShiftLength_placeholders (n : Byte) (k : Nat) : (s.setShiftLength n k).placeholders = s.placeholders := rfl
@[simp] theorem setShiftLength_colour64 (n : Byte) (k : Nat) : (s.setShiftLength n k).colour64 = s.colour64 := rfl
@[simp] theorem setShiftLength_colourGame (n : Byte) (k : Nat) : (s.setShiftLength n k).colourGame = s.colourGame := rfl
@[simp] theorem setShiftLength_prog (n : Byte) (k : Nat) : (s.setShiftLength n k).prog = s.prog := rfl
@[simp] theorem setShiftLength_portIn (n : Byte) (k : Nat) : (s.setShiftLength n k).portIn = s.portIn := rfl
@[simp] theorem setShiftLength_portReads (n : Byte) (k : Nat) : (s.setShiftLength n k).portReads = s.portReads := rfl
@[simp] theorem setShiftLength_out_ops (n : Byte) (k : Nat) : (s.setShiftLength n k).out.ops = s.out.ops := rfl
@[simp] theorem setShiftLength_out_counterReset (n : Byte) (k : Nat) : (s.setShiftLength n k).out.counterReset = s.out.counterReset := rfl
@[simp] theorem setShiftLength_out_waitRequest (n : Byte) (k : Nat) : (s.setShiftLength n k).out.waitRequest = s.out.waitRequest := rfl
@[simp] theorem setShiftLength_out_taken (n : Byte) (k : Nat) : (s.setShiftLength n k).out.taken = s.out.taken := rfl
@[simp] theorem setShiftLength_out_lltSteps (n : Byte) (k : Nat) : (s.setShiftLength n k).out.lltSteps = k := rfl
@[simp] theorem setShiftLength_acc (n : Byte) (k : Nat) : (s.setShiftLength n k).acc = s.acc := rfl
@[simp] theorem setShiftLength_readRam (n : Byte) (k : Nat) (ea' : Byte) : (s.setShiftLength n k).readRam ea' = s.readRam ea' := rfl
@[simp] theorem setShiftLength_programByte (n : Byte) (k : Nat) (at' : Addr) : (s.setShiftLength n k).programByte at' = s.programByte at' := rfl
@[simp] theorem setShiftLength_portAnswer (n : Byte) (k : Nat) : (s.setShiftLength n k).portAnswer = s.portAnswer := rfl
@[simp] theorem setShiftLength_cellAtI (n : Byte) (k : Nat) : (s.setShiftLength n k).cellAtI = s.cellAtI := rfl
@[simp] theorem setShiftLength_isPlaceholder (n : Byte) (k : Nat) (op' : Byte) : (s.setShiftLength n k).isPlaceholder op' = s.isPlaceholder op' := rfl

/-! ### State.setFlags -/

@[simp] theorem setFlags_pc (old v : Word) (a0 : Bool) (raw : Nat) : (s.setFlags old v a0 raw).pc = s.pc := rfl
@[simp] theorem setFlags_a (old v : Word) (a0 : Bool) (raw : Nat) : (s.setFlags old v a0 raw).a = s.a := rfl
@[simp] theorem setFlags_b (old v : Word) (a0 : Bool) (raw : Nat) : (s.setFlags old v a0 raw).b = s.b := rfl
@[simp] theorem setFlags_i (old v : Word) (a0 : Bool) (raw : Nat) : (s.setFlags old v a0 raw).i = s.i := rfl
@[simp] theorem setFlags_j (old v : Word) (a0 : Bool) (raw : Nat) : (s.setFlags old v a0 raw).j = s.j := rfl
@[simp] theorem setFlags_p (old v : Word) (a0 : Bool) (raw : Nat) : (s.setFlags old v a0 raw).p = s.p := rfl
@[simp] theorem setFlags_t (old v : Word) (a0 : Bool) (raw : Nat) : (s.setFlags old v a0 raw).t = s.t := rfl
@[simp] theorem setFlags_fromX (old v : Word) (a0 : Bool) (raw : Nat) : (s.setFlags old v a0 raw).fromX = s.fromX := rfl
@[simp] theorem setFlags_fromY (old v : Word) (a0 : Bool) (raw : Nat) : (s.setFlags old v a0 raw).fromY = s.fromY := rfl
@[simp] theorem setFlags_vgColour (old v : Word) (a0 : Bool) (raw : Nat) : (s.setFlags old v a0 raw).vgColour = s.vgColour := rfl
@[simp] theorem setFlags_vgShiftLength (old v : Word) (a0 : Bool) (raw : Nat) : (s.setFlags old v a0 raw).vgShiftLength = s.vgShiftLength := rfl
@[simp] theorem setFlags_cmpOld (old v : Word) (a0 : Bool) (raw : Nat) : (s.setFlags old v a0 raw).cmpOld = old := rfl
@[simp] theorem setFlags_cmpNew (old v : Word) (a0 : Bool) (raw : Nat) : (s.setFlags old v a0 raw).cmpNew = v := rfl
@[simp] theorem setFlags_accA0 (old v : Word) (a0 : Bool) (raw : Nat) : (s.setFlags old v a0 raw).accA0 = a0 := rfl
@[simp] theorem setFlags_carry (old v : Word) (a0 : Bool) (raw : Nat) : (s.setFlags old v a0 raw).carry = BitVec.ofNat 16 raw := rfl
@[simp] theorem setFlags_ds (old v : Word) (a0 : Bool) (raw : Nat) : (s.setFlags old v a0 raw).ds = s.ds := rfl
@[simp] theorem setFlags_ram (old v : Word) (a0 : Bool) (raw : Nat) : (s.setFlags old v a0 raw).ram = s.ram := rfl
@[simp] theorem setFlags_jumpPolarity (old v : Word) (a0 : Bool) (raw : Nat) : (s.setFlags old v a0 raw).jumpPolarity = s.jumpPolarity := rfl
@[simp] theorem setFlags_addressSpaceSize (old v : Word) (a0 : Bool) (raw : Nat) : (s.setFlags old v a0 raw).addressSpaceSize = s.addressSpaceSize := rfl
@[simp] theorem setFlags_monitorMode (old v : Word) (a0 : Bool) (raw : Nat) : (s.setFlags old v a0 raw).monitorMode = s.monitorMode := rfl
@[simp] theorem setFlags_placeholders (old v : Word) (a0 : Bool) (raw : Nat) : (s.setFlags old v a0 raw).placeholders = s.placeholders := rfl
@[simp] theorem setFlags_colour64 (old v : Word) (a0 : Bool) (raw : Nat) : (s.setFlags old v a0 raw).colour64 = s.colour64 := rfl
@[simp] theorem setFlags_colourGame (old v : Word) (a0 : Bool) (raw : Nat) : (s.setFlags old v a0 raw).colourGame = s.colourGame := rfl
@[simp] theorem setFlags_prog (old v : Word) (a0 : Bool) (raw : Nat) : (s.setFlags old v a0 raw).prog = s.prog := rfl
@[simp] theorem setFlags_portIn (old v : Word) (a0 : Bool) (raw : Nat) : (s.setFlags old v a0 raw).portIn = s.portIn := rfl
@[simp] theorem setFlags_portReads (old v : Word) (a0 : Bool) (raw : Nat) : (s.setFlags old v a0 raw).portReads = s.portReads := rfl
@[simp] theorem setFlags_out (old v : Word) (a0 : Bool) (raw : Nat) : (s.setFlags old v a0 raw).out = s.out := rfl
@[simp] theorem setFlags_acc (old v : Word) (a0 : Bool) (raw : Nat) : (s.setFlags old v a0 raw).acc = s.acc := rfl
@[simp] theorem setFlags_readRam (old v : Word) (a0 : Bool) (raw : Nat) (ea' : Byte) : (s.setFlags old v a0 raw).readRam ea' = s.readRam ea' := rfl
@[simp] theorem setFlags_programByte (old v : Word) (a0 : Bool) (raw : Nat) (at' : Addr) : (s.setFlags old v a0 raw).programByte at' = s.programByte at' := rfl
@[simp] theorem setFlags_portAnswer (old v : Word) (a0 : Bool) (raw : Nat) : (s.setFlags old v a0 raw).portAnswer = s.portAnswer := rfl
@[simp] theorem setFlags_cellAtI (old v : Word) (a0 : Bool) (raw : Nat) : (s.setFlags old v a0 raw).cellAtI = s.cellAtI := rfl
@[simp] theorem setFlags_isPlaceholder (old v : Word) (a0 : Bool) (raw : Nat) (op' : Byte) : (s.setFlags old v a0 raw).isPlaceholder op' = s.isPlaceholder op' := rfl

/-! ### State.advance -/

@[simp] theorem advance_pc : (s.advance).pc = s.pc + 1 := rfl
@[simp] theorem advance_a : (s.advance).a = s.a := rfl
@[simp] theorem advance_b : (s.advance).b = s.b := rfl
@[simp] theorem advance_i : (s.advance).i = s.i := rfl
@[simp] theorem advance_j : (s.advance).j = s.j := rfl
@[simp] theorem advance_p : (s.advance).p = s.p := rfl
@[simp] theorem advance_t : (s.advance).t = s.t := rfl
@[simp] theorem advance_fromX : (s.advance).fromX = s.fromX := rfl
@[simp] theorem advance_fromY : (s.advance).fromY = s.fromY := rfl
@[simp] theorem advance_vgColour : (s.advance).vgColour = s.vgColour := rfl
@[simp] theorem advance_vgShiftLength : (s.advance).vgShiftLength = s.vgShiftLength := rfl
@[simp] theorem advance_cmpOld : (s.advance).cmpOld = s.cmpOld := rfl
@[simp] theorem advance_cmpNew : (s.advance).cmpNew = s.cmpNew := rfl
@[simp] theorem advance_accA0 : (s.advance).accA0 = s.accA0 := rfl
@[simp] theorem advance_carry : (s.advance).carry = s.carry := rfl
@[simp] theorem advance_ds : (s.advance).ds = s.ds := rfl
@[simp] theorem advance_ram : (s.advance).ram = s.ram := rfl
@[simp] theorem advance_jumpPolarity : (s.advance).jumpPolarity = s.jumpPolarity := rfl
@[simp] theorem advance_addressSpaceSize : (s.advance).addressSpaceSize = s.addressSpaceSize := rfl
@[simp] theorem advance_monitorMode : (s.advance).monitorMode = s.monitorMode := rfl
@[simp] theorem advance_placeholders : (s.advance).placeholders = s.placeholders := rfl
@[simp] theorem advance_colour64 : (s.advance).colour64 = s.colour64 := rfl
@[simp] theorem advance_colourGame : (s.advance).colourGame = s.colourGame := rfl
@[simp] theorem advance_prog : (s.advance).prog = s.prog := rfl
@[simp] theorem advance_portIn : (s.advance).portIn = s.portIn := rfl
@[simp] theorem advance_portReads : (s.advance).portReads = s.portReads := rfl
@[simp] theorem advance_out : (s.advance).out = s.out := rfl
@[simp] theorem advance_acc : (s.advance).acc = s.acc := rfl
@[simp] theorem advance_readRam (ea' : Byte) : (s.advance).readRam ea' = s.readRam ea' := rfl
@[simp] theorem advance_programByte (at' : Addr) : (s.advance).programByte at' = s.programByte at' := rfl
@[simp] theorem advance_portAnswer : (s.advance).portAnswer = s.portAnswer := rfl
@[simp] theorem advance_cellAtI : (s.advance).cellAtI = s.cellAtI := rfl
@[simp] theorem advance_isPlaceholder (op' : Byte) : (s.advance).isPlaceholder op' = s.isPlaceholder op' := rfl

/-! ### State.writeRam -/

@[simp] theorem writeRam_pc (ea : Byte) (v : Word) : (s.writeRam ea v).pc = s.pc := rfl
@[simp] theorem writeRam_a (ea : Byte) (v : Word) : (s.writeRam ea v).a = s.a := rfl
@[simp] theorem writeRam_b (ea : Byte) (v : Word) : (s.writeRam ea v).b = s.b := rfl
@[simp] theorem writeRam_i (ea : Byte) (v : Word) : (s.writeRam ea v).i = s.i := rfl
@[simp] theorem writeRam_j (ea : Byte) (v : Word) : (s.writeRam ea v).j = s.j := rfl
@[simp] theorem writeRam_p (ea : Byte) (v : Word) : (s.writeRam ea v).p = s.p := rfl
@[simp] theorem writeRam_t (ea : Byte) (v : Word) : (s.writeRam ea v).t = s.t := rfl
@[simp] theorem writeRam_fromX (ea : Byte) (v : Word) : (s.writeRam ea v).fromX = s.fromX := rfl
@[simp] theorem writeRam_fromY (ea : Byte) (v : Word) : (s.writeRam ea v).fromY = s.fromY := rfl
@[simp] theorem writeRam_vgColour (ea : Byte) (v : Word) : (s.writeRam ea v).vgColour = s.vgColour := rfl
@[simp] theorem writeRam_vgShiftLength (ea : Byte) (v : Word) : (s.writeRam ea v).vgShiftLength = s.vgShiftLength := rfl
@[simp] theorem writeRam_cmpOld (ea : Byte) (v : Word) : (s.writeRam ea v).cmpOld = s.cmpOld := rfl
@[simp] theorem writeRam_cmpNew (ea : Byte) (v : Word) : (s.writeRam ea v).cmpNew = s.cmpNew := rfl
@[simp] theorem writeRam_accA0 (ea : Byte) (v : Word) : (s.writeRam ea v).accA0 = s.accA0 := rfl
@[simp] theorem writeRam_carry (ea : Byte) (v : Word) : (s.writeRam ea v).carry = s.carry := rfl
@[simp] theorem writeRam_ds (ea : Byte) (v : Word) : (s.writeRam ea v).ds = s.ds := rfl
@[simp] theorem writeRam_ram (ea : Byte) (v : Word) : (s.writeRam ea v).ram = ramWrite s.ram ea v := rfl
@[simp] theorem writeRam_jumpPolarity (ea : Byte) (v : Word) : (s.writeRam ea v).jumpPolarity = s.jumpPolarity := rfl
@[simp] theorem writeRam_addressSpaceSize (ea : Byte) (v : Word) : (s.writeRam ea v).addressSpaceSize = s.addressSpaceSize := rfl
@[simp] theorem writeRam_monitorMode (ea : Byte) (v : Word) : (s.writeRam ea v).monitorMode = s.monitorMode := rfl
@[simp] theorem writeRam_placeholders (ea : Byte) (v : Word) : (s.writeRam ea v).placeholders = s.placeholders := rfl
@[simp] theorem writeRam_colour64 (ea : Byte) (v : Word) : (s.writeRam ea v).colour64 = s.colour64 := rfl
@[simp] theorem writeRam_colourGame (ea : Byte) (v : Word) : (s.writeRam ea v).colourGame = s.colourGame := rfl
@[simp] theorem writeRam_prog (ea : Byte) (v : Word) : (s.writeRam ea v).prog = s.prog := rfl
@[simp] theorem writeRam_portIn (ea : Byte) (v : Word) : (s.writeRam ea v).portIn = s.portIn := rfl
@[simp] theorem writeRam_portReads (ea : Byte) (v : Word) : (s.writeRam ea v).portReads = s.portReads := rfl
@[simp] theorem writeRam_out (ea : Byte) (v : Word) : (s.writeRam ea v).out = s.out := rfl
@[simp] theorem writeRam_acc (ea : Byte) (v : Word) : (s.writeRam ea v).acc = s.acc := rfl
@[simp] theorem writeRam_programByte (ea : Byte) (v : Word) (at' : Addr) : (s.writeRam ea v).programByte at' = s.programByte at' := rfl
@[simp] theorem writeRam_portAnswer (ea : Byte) (v : Word) : (s.writeRam ea v).portAnswer = s.portAnswer := rfl
@[simp] theorem writeRam_isPlaceholder (ea : Byte) (v : Word) (op' : Byte) : (s.writeRam ea v).isPlaceholder op' = s.isPlaceholder op' := rfl

/-! ### State.storeProgram -/

@[simp] theorem storeProgram_pc (x : Addr) (v : Byte) : (s.storeProgram x v).pc = s.pc := rfl
@[simp] theorem storeProgram_a (x : Addr) (v : Byte) : (s.storeProgram x v).a = s.a := rfl
@[simp] theorem storeProgram_b (x : Addr) (v : Byte) : (s.storeProgram x v).b = s.b := rfl
@[simp] theorem storeProgram_i (x : Addr) (v : Byte) : (s.storeProgram x v).i = s.i := rfl
@[simp] theorem storeProgram_j (x : Addr) (v : Byte) : (s.storeProgram x v).j = s.j := rfl
@[simp] theorem storeProgram_p (x : Addr) (v : Byte) : (s.storeProgram x v).p = s.p := rfl
@[simp] theorem storeProgram_t (x : Addr) (v : Byte) : (s.storeProgram x v).t = s.t := rfl
@[simp] theorem storeProgram_fromX (x : Addr) (v : Byte) : (s.storeProgram x v).fromX = s.fromX := rfl
@[simp] theorem storeProgram_fromY (x : Addr) (v : Byte) : (s.storeProgram x v).fromY = s.fromY := rfl
@[simp] theorem storeProgram_vgColour (x : Addr) (v : Byte) : (s.storeProgram x v).vgColour = s.vgColour := rfl
@[simp] theorem storeProgram_vgShiftLength (x : Addr) (v : Byte) : (s.storeProgram x v).vgShiftLength = s.vgShiftLength := rfl
@[simp] theorem storeProgram_cmpOld (x : Addr) (v : Byte) : (s.storeProgram x v).cmpOld = s.cmpOld := rfl
@[simp] theorem storeProgram_cmpNew (x : Addr) (v : Byte) : (s.storeProgram x v).cmpNew = s.cmpNew := rfl
@[simp] theorem storeProgram_accA0 (x : Addr) (v : Byte) : (s.storeProgram x v).accA0 = s.accA0 := rfl
@[simp] theorem storeProgram_carry (x : Addr) (v : Byte) : (s.storeProgram x v).carry = s.carry := rfl
@[simp] theorem storeProgram_ds (x : Addr) (v : Byte) : (s.storeProgram x v).ds = s.ds := rfl
@[simp] theorem storeProgram_ram (x : Addr) (v : Byte) : (s.storeProgram x v).ram = s.ram := rfl
@[simp] theorem storeProgram_jumpPolarity (x : Addr) (v : Byte) : (s.storeProgram x v).jumpPolarity = s.jumpPolarity := rfl
@[simp] theorem storeProgram_addressSpaceSize (x : Addr) (v : Byte) : (s.storeProgram x v).addressSpaceSize = s.addressSpaceSize := rfl
@[simp] theorem storeProgram_monitorMode (x : Addr) (v : Byte) : (s.storeProgram x v).monitorMode = s.monitorMode := rfl
@[simp] theorem storeProgram_placeholders (x : Addr) (v : Byte) : (s.storeProgram x v).placeholders = s.placeholders := rfl
@[simp] theorem storeProgram_colour64 (x : Addr) (v : Byte) : (s.storeProgram x v).colour64 = s.colour64 := rfl
@[simp] theorem storeProgram_colourGame (x : Addr) (v : Byte) : (s.storeProgram x v).colourGame = s.colourGame := rfl
@[simp] theorem storeProgram_prog (x : Addr) (v : Byte) : (s.storeProgram x v).prog = programWrite s.prog x v := rfl
@[simp] theorem storeProgram_portIn (x : Addr) (v : Byte) : (s.storeProgram x v).portIn = s.portIn := rfl
@[simp] theorem storeProgram_portReads (x : Addr) (v : Byte) : (s.storeProgram x v).portReads = s.portReads := rfl
@[simp] theorem storeProgram_out (x : Addr) (v : Byte) : (s.storeProgram x v).out = s.out := rfl
@[simp] theorem storeProgram_acc (x : Addr) (v : Byte) : (s.storeProgram x v).acc = s.acc := rfl
@[simp] theorem storeProgram_readRam (x : Addr) (v : Byte) (ea' : Byte) : (s.storeProgram x v).readRam ea' = s.readRam ea' := rfl
@[simp] theorem storeProgram_portAnswer (x : Addr) (v : Byte) : (s.storeProgram x v).portAnswer = s.portAnswer := rfl
@[simp] theorem storeProgram_cellAtI (x : Addr) (v : Byte) : (s.storeProgram x v).cellAtI = s.cellAtI := rfl
@[simp] theorem storeProgram_isPlaceholder (x : Addr) (v : Byte) (op' : Byte) : (s.storeProgram x v).isPlaceholder op' = s.isPlaceholder op' := rfl

/-! ### State.perform -/

@[simp] theorem perform_pc (op : IfaceOp) : (s.perform op).pc = s.pc := rfl
@[simp] theorem perform_a (op : IfaceOp) : (s.perform op).a = s.a := rfl
@[simp] theorem perform_b (op : IfaceOp) : (s.perform op).b = s.b := rfl
@[simp] theorem perform_i (op : IfaceOp) : (s.perform op).i = s.i := rfl
@[simp] theorem perform_j (op : IfaceOp) : (s.perform op).j = s.j := rfl
@[simp] theorem perform_p (op : IfaceOp) : (s.perform op).p = s.p := rfl
@[simp] theorem perform_t (op : IfaceOp) : (s.perform op).t = s.t := rfl
@[simp] theorem perform_fromX (op : IfaceOp) : (s.perform op).fromX = s.fromX := rfl
@[simp] theorem perform_fromY (op : IfaceOp) : (s.perform op).fromY = s.fromY := rfl
@[simp] theorem perform_vgColour (op : IfaceOp) : (s.perform op).vgColour = s.vgColour := rfl
@[simp] theorem perform_vgShiftLength (op : IfaceOp) : (s.perform op).vgShiftLength = s.vgShiftLength := rfl
@[simp] theorem perform_cmpOld (op : IfaceOp) : (s.perform op).cmpOld = s.cmpOld := rfl
@[simp] theorem perform_cmpNew (op : IfaceOp) : (s.perform op).cmpNew = s.cmpNew := rfl
@[simp] theorem perform_accA0 (op : IfaceOp) : (s.perform op).accA0 = s.accA0 := rfl
@[simp] theorem perform_carry (op : IfaceOp) : (s.perform op).carry = s.carry := rfl
@[simp] theorem perform_ds (op : IfaceOp) : (s.perform op).ds = s.ds := rfl
@[simp] theorem perform_ram (op : IfaceOp) : (s.perform op).ram = s.ram := rfl
@[simp] theorem perform_jumpPolarity (op : IfaceOp) : (s.perform op).jumpPolarity = s.jumpPolarity := rfl
@[simp] theorem perform_addressSpaceSize (op : IfaceOp) : (s.perform op).addressSpaceSize = s.addressSpaceSize := rfl
@[simp] theorem perform_monitorMode (op : IfaceOp) : (s.perform op).monitorMode = s.monitorMode := rfl
@[simp] theorem perform_placeholders (op : IfaceOp) : (s.perform op).placeholders = s.placeholders := rfl
@[simp] theorem perform_colour64 (op : IfaceOp) : (s.perform op).colour64 = s.colour64 := rfl
@[simp] theorem perform_colourGame (op : IfaceOp) : (s.perform op).colourGame = s.colourGame := rfl
@[simp] theorem perform_prog (op : IfaceOp) : (s.perform op).prog = s.prog := rfl
@[simp] theorem perform_portIn (op : IfaceOp) : (s.perform op).portIn = s.portIn := rfl
@[simp] theorem perform_portReads (op : IfaceOp) : (s.perform op).portReads = s.portReads := rfl
@[simp] theorem perform_out_ops (op : IfaceOp) : (s.perform op).out.ops = s.out.ops ++ [op] := rfl
@[simp] theorem perform_out_counterReset (op : IfaceOp) : (s.perform op).out.counterReset = s.out.counterReset := rfl
@[simp] theorem perform_out_waitRequest (op : IfaceOp) : (s.perform op).out.waitRequest = s.out.waitRequest := rfl
@[simp] theorem perform_out_taken (op : IfaceOp) : (s.perform op).out.taken = s.out.taken := rfl
@[simp] theorem perform_out_lltSteps (op : IfaceOp) : (s.perform op).out.lltSteps = s.out.lltSteps := rfl
@[simp] theorem perform_acc (op : IfaceOp) : (s.perform op).acc = s.acc := rfl
@[simp] theorem perform_readRam (op : IfaceOp) (ea' : Byte) : (s.perform op).readRam ea' = s.readRam ea' := rfl
@[simp] theorem perform_programByte (op : IfaceOp) (at' : Addr) : (s.perform op).programByte at' = s.programByte at' := rfl
@[simp] theorem perform_portAnswer (op : IfaceOp) : (s.perform op).portAnswer = s.portAnswer := rfl
@[simp] theorem perform_cellAtI (op : IfaceOp) : (s.perform op).cellAtI = s.cellAtI := rfl
@[simp] theorem perform_isPlaceholder (op : IfaceOp) (op' : Byte) : (s.perform op).isPlaceholder op' = s.isPlaceholder op' := rfl

/-! ### State.portRead -/

@[simp] theorem portRead_pc (x : Port) : (s.portRead x).pc = s.pc := rfl
@[simp] theorem portRead_a (x : Port) : (s.portRead x).a = s.a := rfl
@[simp] theorem portRead_b (x : Port) : (s.portRead x).b = s.b := rfl
@[simp] theorem portRead_i (x : Port) : (s.portRead x).i = s.i := rfl
@[simp] theorem portRead_j (x : Port) : (s.portRead x).j = s.j := rfl
@[simp] theorem portRead_p (x : Port) : (s.portRead x).p = s.p := rfl
@[simp] theorem portRead_t (x : Port) : (s.portRead x).t = s.t := rfl
@[simp] theorem portRead_fromX (x : Port) : (s.portRead x).fromX = s.fromX := rfl
@[simp] theorem portRead_fromY (x : Port) : (s.portRead x).fromY = s.fromY := rfl
@[simp] theorem portRead_vgColour (x : Port) : (s.portRead x).vgColour = s.vgColour := rfl
@[simp] theorem portRead_vgShiftLength (x : Port) : (s.portRead x).vgShiftLength = s.vgShiftLength := rfl
@[simp] theorem portRead_cmpOld (x : Port) : (s.portRead x).cmpOld = s.cmpOld := rfl
@[simp] theorem portRead_cmpNew (x : Port) : (s.portRead x).cmpNew = s.cmpNew := rfl
@[simp] theorem portRead_accA0 (x : Port) : (s.portRead x).accA0 = s.accA0 := rfl
@[simp] theorem portRead_carry (x : Port) : (s.portRead x).carry = s.carry := rfl
@[simp] theorem portRead_ds (x : Port) : (s.portRead x).ds = s.ds := rfl
@[simp] theorem portRead_ram (x : Port) : (s.portRead x).ram = s.ram := rfl
@[simp] theorem portRead_jumpPolarity (x : Port) : (s.portRead x).jumpPolarity = s.jumpPolarity := rfl
@[simp] theorem portRead_addressSpaceSize (x : Port) : (s.portRead x).addressSpaceSize = s.addressSpaceSize := rfl
@[simp] theorem portRead_monitorMode (x : Port) : (s.portRead x).monitorMode = s.monitorMode := rfl
@[simp] theorem portRead_placeholders (x : Port) : (s.portRead x).placeholders = s.placeholders := rfl
@[simp] theorem portRead_colour64 (x : Port) : (s.portRead x).colour64 = s.colour64 := rfl
@[simp] theorem portRead_colourGame (x : Port) : (s.portRead x).colourGame = s.colourGame := rfl
@[simp] theorem portRead_prog (x : Port) : (s.portRead x).prog = s.prog := rfl
@[simp] theorem portRead_portIn (x : Port) : (s.portRead x).portIn = s.portIn.tail := rfl
@[simp] theorem portRead_portReads (x : Port) : (s.portRead x).portReads = s.portReads + 1 := rfl
@[simp] theorem portRead_out_ops (x : Port) : (s.portRead x).out.ops = s.out.ops ++ [.portRead x s.portAnswer] := rfl
@[simp] theorem portRead_out_counterReset (x : Port) : (s.portRead x).out.counterReset = s.out.counterReset := rfl
@[simp] theorem portRead_out_waitRequest (x : Port) : (s.portRead x).out.waitRequest = s.out.waitRequest := rfl
@[simp] theorem portRead_out_taken (x : Port) : (s.portRead x).out.taken = s.out.taken := rfl
@[simp] theorem portRead_out_lltSteps (x : Port) : (s.portRead x).out.lltSteps = s.out.lltSteps := rfl
@[simp] theorem portRead_acc (x : Port) : (s.portRead x).acc = s.acc := rfl
@[simp] theorem portRead_readRam (x : Port) (ea' : Byte) : (s.portRead x).readRam ea' = s.readRam ea' := rfl
@[simp] theorem portRead_programByte (x : Port) (at' : Addr) : (s.portRead x).programByte at' = s.programByte at' := rfl
@[simp] theorem portRead_cellAtI (x : Port) : (s.portRead x).cellAtI = s.cellAtI := rfl
@[simp] theorem portRead_isPlaceholder (x : Port) (op' : Byte) : (s.portRead x).isPlaceholder op' = s.isPlaceholder op' := rfl

/-! ### State.signalCounterReset -/

@[simp] theorem signalCounterReset_pc (c : Bool) : (s.signalCounterReset c).pc = s.pc := rfl
@[simp] theorem signalCounterReset_a (c : Bool) : (s.signalCounterReset c).a = s.a := rfl
@[simp] theorem signalCounterReset_b (c : Bool) : (s.signalCounterReset c).b = s.b := rfl
@[simp] theorem signalCounterReset_i (c : Bool) : (s.signalCounterReset c).i = s.i := rfl
@[simp] theorem signalCounterReset_j (c : Bool) : (s.signalCounterReset c).j = s.j := rfl
@[simp] theorem signalCounterReset_p (c : Bool) : (s.signalCounterReset c).p = s.p := rfl
@[simp] theorem signalCounterReset_t (c : Bool) : (s.signalCounterReset c).t = s.t := rfl
@[simp] theorem signalCounterReset_fromX (c : Bool) : (s.signalCounterReset c).fromX = s.fromX := rfl
@[simp] theorem signalCounterReset_fromY (c : Bool) : (s.signalCounterReset c).fromY = s.fromY := rfl
@[simp] theorem signalCounterReset_vgColour (c : Bool) : (s.signalCounterReset c).vgColour = s.vgColour := rfl
@[simp] theorem signalCounterReset_vgShiftLength (c : Bool) : (s.signalCounterReset c).vgShiftLength = s.vgShiftLength := rfl
@[simp] theorem signalCounterReset_cmpOld (c : Bool) : (s.signalCounterReset c).cmpOld = s.cmpOld := rfl
@[simp] theorem signalCounterReset_cmpNew (c : Bool) : (s.signalCounterReset c).cmpNew = s.cmpNew := rfl
@[simp] theorem signalCounterReset_accA0 (c : Bool) : (s.signalCounterReset c).accA0 = s.accA0 := rfl
@[simp] theorem signalCounterReset_carry (c : Bool) : (s.signalCounterReset c).carry = s.carry := rfl
@[simp] theorem signalCounterReset_ds (c : Bool) : (s.signalCounterReset c).ds = s.ds := rfl
@[simp] theorem signalCounterReset_ram (c : Bool) : (s.signalCounterReset c).ram = s.ram := rfl
@[simp] theorem signalCounterReset_jumpPolarity (c : Bool) : (s.signalCounterReset c).jumpPolarity = s.jumpPolarity := rfl
@[simp] theorem signalCounterReset_addressSpaceSize (c : Bool) : (s.signalCounterReset c).addressSpaceSize = s.addressSpaceSize := rfl
@[simp] theorem signalCounterReset_monitorMode (c : Bool) : (s.signalCounterReset c).monitorMode = s.monitorMode := rfl
@[simp] theorem signalCounterReset_placeholders (c : Bool) : (s.signalCounterReset c).placeholders = s.placeholders := rfl
@[simp] theorem signalCounterReset_colour64 (c : Bool) : (s.signalCounterReset c).colour64 = s.colour64 := rfl
@[simp] theorem signalCounterReset_colourGame (c : Bool) : (s.signalCounterReset c).colourGame = s.colourGame := rfl
@[simp] theorem signalCounterReset_prog (c : Bool) : (s.signalCounterReset c).prog = s.prog := rfl
@[simp] theorem signalCounterReset_portIn (c : Bool) : (s.signalCounterReset c).portIn = s.portIn := rfl
@[simp] theorem signalCounterReset_portReads (c : Bool) : (s.signalCounterReset c).portReads = s.portReads := rfl
@[simp] theorem signalCounterReset_out_ops (c : Bool) : (s.signalCounterReset c).out.ops = s.out.ops := rfl
@[simp] theorem signalCounterReset_out_counterReset (c : Bool) : (s.signalCounterReset c).out.counterReset = (s.out.counterReset || c) := rfl
@[simp] theorem signalCounterReset_out_waitRequest (c : Bool) : (s.signalCounterReset c).out.waitRequest = s.out.waitRequest := rfl
@[simp] theorem signalCounterReset_out_taken (c : Bool) : (s.signalCounterReset c).out.taken = s.out.taken := rfl
@[simp] theorem signalCounterReset_out_lltSteps (c : Bool) : (s.signalCounterReset c).out.lltSteps = s.out.lltSteps := rfl
@[simp] theorem signalCounterReset_acc (c : Bool) : (s.signalCounterReset c).acc = s.acc := rfl
@[simp] theorem signalCounterReset_readRam (c : Bool) (ea' : Byte) : (s.signalCounterReset c).readRam ea' = s.readRam ea' := rfl
@[simp] theorem signalCounterReset_programByte (c : Bool) (at' : Addr) : (s.signalCounterReset c).programByte at' = s.programByte at' := rfl
@[simp] theorem signalCounterReset_portAnswer (c : Bool) : (s.signalCounterReset c).portAnswer = s.portAnswer := rfl
@[simp] theorem signalCounterReset_cellAtI (c : Bool) : (s.signalCounterReset c).cellAtI = s.cellAtI := rfl
@[simp] theorem signalCounterReset_isPlaceholder (c : Bool) (op' : Byte) : (s.signalCounterReset c).isPlaceholder op' = s.isPlaceholder op' := rfl

/-! ### State.signalWait -/

@[simp] theorem signalWait_pc : (s.signalWait).pc = s.pc := rfl
@[simp] theorem signalWait_a : (s.signalWait).a = s.a := rfl
@[simp] theorem signalWait_b : (s.signalWait).b = s.b := rfl
@[simp] theorem signalWait_i : (s.signalWait).i = s.i := rfl
@[simp] theorem signalWait_j : (s.signalWait).j = s.j := rfl
@[simp] theorem signalWait_p : (s.signalWait).p = s.p := rfl
@[simp] theorem signalWait_t : (s.signalWait).t = s.t := rfl
@[simp] theorem signalWait_fromX : (s.signalWait).fromX = s.fromX := rfl
@[simp] theorem signalWait_fromY : (s.signalWait).fromY = s.fromY := rfl
@[simp] theorem signalWait_vgColour : (s.signalWait).vgColour = s.vgColour := rfl
@[simp] theorem signalWait_vgShiftLength : (s.signalWait).vgShiftLength = s.vgShiftLength := rfl
@[simp] theorem signalWait_cmpOld : (s.signalWait).cmpOld = s.cmpOld := rfl
@[simp] theorem signalWait_cmpNew : (s.signalWait).cmpNew = s.cmpNew := rfl
@[simp] theorem signalWait_accA0 : (s.signalWait).accA0 = s.accA0 := rfl
@[simp] theorem signalWait_carry : (s.signalWait).carry = s.carry := rfl
@[simp] theorem signalWait_ds : (s.signalWait).ds = s.ds := rfl
@[simp] theorem signalWait_ram : (s.signalWait).ram = s.ram := rfl
@[simp] theorem signalWait_jumpPolarity : (s.signalWait).jumpPolarity = s.jumpPolarity := rfl
@[simp] theorem signalWait_addressSpaceSize : (s.signalWait).addressSpaceSize = s.addressSpaceSize := rfl
@[simp] theorem signalWait_monitorMode : (s.signalWait).monitorMode = s.monitorMode := rfl
@[simp] theorem signalWait_placeholders : (s.signalWait).placeholders = s.placeholders := rfl
@[simp] theorem signalWait_colour64 : (s.signalWait).colour64 = s.colour64 := rfl
@[simp] theorem signalWait_colourGame : (s.signalWait).colourGame = s.colourGame := rfl
@[simp] theorem signalWait_prog : (s.signalWait).prog = s.prog := rfl
@[simp] theorem signalWait_portIn : (s.signalWait).portIn = s.portIn := rfl
@[simp] theorem signalWait_portReads : (s.signalWait).portReads = s.portReads := rfl
@[simp] theorem signalWait_out_ops : (s.signalWait).out.ops = s.out.ops := rfl
@[simp] theorem signalWait_out_counterReset : (s.signalWait).out.counterReset = s.out.counterReset := rfl
@[simp] theorem signalWait_out_waitRequest : (s.signalWait).out.waitRequest = true := rfl
@[simp] theorem signalWait_out_taken : (s.signalWait).out.taken = s.out.taken := rfl
@[simp] theorem signalWait_out_lltSteps : (s.signalWait).out.lltSteps = s.out.lltSteps := rfl
@[simp] theorem signalWait_acc : (s.signalWait).acc = s.acc := rfl
@[simp] theorem signalWait_readRam (ea' : Byte) : (s.signalWait).readRam ea' = s.readRam ea' := rfl
@[simp] theorem signalWait_programByte (at' : Addr) : (s.signalWait).programByte at' = s.programByte at' := rfl
@[simp] theorem signalWait_portAnswer : (s.signalWait).portAnswer = s.portAnswer := rfl
@[simp] theorem signalWait_cellAtI : (s.signalWait).cellAtI = s.cellAtI := rfl
@[simp] theorem signalWait_isPlaceholder (op' : Byte) : (s.signalWait).isPlaceholder op' = s.isPlaceholder op' := rfl

/-! ### State.branch -/

@[simp] theorem branch_pc (c : Bool) (x : Addr) : (s.branch c x).pc = if c then x else s.pc := rfl
@[simp] theorem branch_a (c : Bool) (x : Addr) : (s.branch c x).a = s.a := rfl
@[simp] theorem branch_b (c : Bool) (x : Addr) : (s.branch c x).b = s.b := rfl
@[simp] theorem branch_i (c : Bool) (x : Addr) : (s.branch c x).i = s.i := rfl
@[simp] theorem branch_j (c : Bool) (x : Addr) : (s.branch c x).j = s.j := rfl
@[simp] theorem branch_p (c : Bool) (x : Addr) : (s.branch c x).p = s.p := rfl
@[simp] theorem branch_t (c : Bool) (x : Addr) : (s.branch c x).t = s.t := rfl
@[simp] theorem branch_fromX (c : Bool) (x : Addr) : (s.branch c x).fromX = s.fromX := rfl
@[simp] theorem branch_fromY (c : Bool) (x : Addr) : (s.branch c x).fromY = s.fromY := rfl
@[simp] theorem branch_vgColour (c : Bool) (x : Addr) : (s.branch c x).vgColour = s.vgColour := rfl
@[simp] theorem branch_vgShiftLength (c : Bool) (x : Addr) : (s.branch c x).vgShiftLength = s.vgShiftLength := rfl
@[simp] theorem branch_cmpOld (c : Bool) (x : Addr) : (s.branch c x).cmpOld = s.cmpOld := rfl
@[simp] theorem branch_cmpNew (c : Bool) (x : Addr) : (s.branch c x).cmpNew = s.cmpNew := rfl
@[simp] theorem branch_accA0 (c : Bool) (x : Addr) : (s.branch c x).accA0 = s.accA0 := rfl
@[simp] theorem branch_carry (c : Bool) (x : Addr) : (s.branch c x).carry = s.carry := rfl
@[simp] theorem branch_ds (c : Bool) (x : Addr) : (s.branch c x).ds = s.ds := rfl
@[simp] theorem branch_ram (c : Bool) (x : Addr) : (s.branch c x).ram = s.ram := rfl
@[simp] theorem branch_jumpPolarity (c : Bool) (x : Addr) : (s.branch c x).jumpPolarity = s.jumpPolarity := rfl
@[simp] theorem branch_addressSpaceSize (c : Bool) (x : Addr) : (s.branch c x).addressSpaceSize = s.addressSpaceSize := rfl
@[simp] theorem branch_monitorMode (c : Bool) (x : Addr) : (s.branch c x).monitorMode = s.monitorMode := rfl
@[simp] theorem branch_placeholders (c : Bool) (x : Addr) : (s.branch c x).placeholders = s.placeholders := rfl
@[simp] theorem branch_colour64 (c : Bool) (x : Addr) : (s.branch c x).colour64 = s.colour64 := rfl
@[simp] theorem branch_colourGame (c : Bool) (x : Addr) : (s.branch c x).colourGame = s.colourGame := rfl
@[simp] theorem branch_prog (c : Bool) (x : Addr) : (s.branch c x).prog = s.prog := rfl
@[simp] theorem branch_portIn (c : Bool) (x : Addr) : (s.branch c x).portIn = s.portIn := rfl
@[simp] theorem branch_portReads (c : Bool) (x : Addr) : (s.branch c x).portReads = s.portReads := rfl
@[simp] theorem branch_out_ops (c : Bool) (x : Addr) : (s.branch c x).out.ops = s.out.ops := rfl
@[simp] theorem branch_out_counterReset (c : Bool) (x : Addr) : (s.branch c x).out.counterReset = s.out.counterReset := rfl
@[simp] theorem branch_out_waitRequest (c : Bool) (x : Addr) : (s.branch c x).out.waitRequest = s.out.waitRequest := rfl
@[simp] theorem branch_out_taken (c : Bool) (x : Addr) : (s.branch c x).out.taken = (s.out.taken || c) := rfl
@[simp] theorem branch_out_lltSteps (c : Bool) (x : Addr) : (s.branch c x).out.lltSteps = s.out.lltSteps := rfl
@[simp] theorem branch_acc (c : Bool) (x : Addr) : (s.branch c x).acc = s.acc := rfl
@[simp] theorem branch_readRam (c : Bool) (x : Addr) (ea' : Byte) : (s.branch c x).readRam ea' = s.readRam ea' := rfl
@[simp] theorem branch_programByte (c : Bool) (x : Addr) (at' : Addr) : (s.branch c x).programByte at' = s.programByte at' := rfl
@[simp] theorem branch_portAnswer (c : Bool) (x : Addr) : (s.branch c x).portAnswer = s.portAnswer := rfl
@[simp] theorem branch_cellAtI (c : Bool) (x : Addr) : (s.branch c x).cellAtI = s.cellAtI := rfl
@[simp] theorem branch_isPlaceholder (c : Bool) (x : Addr) (op' : Byte) : (s.branch c x).isPlaceholder op' = s.isPlaceholder op' := rfl

/-! ### State.clearOut -/

@[simp] theorem clearOut_pc : (s.clearOut).pc = s.pc := rfl
@[simp] theorem clearOut_a : (s.clearOut).a = s.a := rfl
@[simp] theorem clearOut_b : (s.clearOut).b = s.b := rfl
@[simp] theorem clearOut_i : (s.clearOut).i = s.i := rfl
@[simp] theorem clearOut_j : (s.clearOut).j = s.j := rfl
@[simp] theorem clearOut_p : (s.clearOut).p = s.p := rfl
@[simp] theorem clearOut_t : (s.clearOut).t = s.t := rfl
@[simp] theorem clearOut_fromX : (s.clearOut).fromX = s.fromX := rfl
@[simp] theorem clearOut_fromY : (s.clearOut).fromY = s.fromY := rfl
@[simp] theorem clearOut_vgColour : (s.clearOut).vgColour = s.vgColour := rfl
@[simp] theorem clearOut_vgShiftLength : (s.clearOut).vgShiftLength = s.vgShiftLength := rfl
@[simp] theorem clearOut_cmpOld : (s.clearOut).cmpOld = s.cmpOld := rfl
@[simp] theorem clearOut_cmpNew : (s.clearOut).cmpNew = s.cmpNew := rfl
@[simp] theorem clearOut_accA0 : (s.clearOut).accA0 = s.accA0 := rfl
@[simp] theorem clearOut_carry : (s.clearOut).carry = s.carry := rfl
@[simp] theorem clearOut_ds : (s.clearOut).ds = s.ds := rfl
@[simp] theorem clearOut_ram : (s.clearOut).ram = s.ram := rfl
@[simp] theorem clearOut_jumpPolarity : (s.clearOut).jumpPolarity = s.jumpPolarity := rfl
@[simp] theorem clearOut_addressSpaceSize : (s.clearOut).addressSpaceSize = s.addressSpaceSize := rfl
@[simp] theorem clearOut_monitorMode : (s.clearOut).monitorMode = s.monitorMode := rfl
@[simp] theorem clearOut_placeholders : (s.clearOut).placeholders = s.placeholders := rfl
@[simp] theorem clearOut_colour64 : (s.clearOut).colour64 = s.colour64 := rfl
@[simp] theorem clearOut_colourGame : (s.clearOut).colourGame = s.colourGame := rfl
@[simp] theorem clearOut_prog : (s.clearOut).prog = s.prog := rfl
@[simp] theorem clearOut_portIn : (s.clearOut).portIn = s.portIn := rfl
@[simp] theorem clearOut_portReads : (s.clearOut).portReads = s.portReads := rfl
@[simp] theorem clearOut_out_ops : (s.clearOut).out.ops = [] := rfl
@[simp] theorem clearOut_out_counterReset : (s.clearOut).out.counterReset = false := rfl
@[simp] theorem clearOut_out_waitRequest : (s.clearOut).out.waitRequest = false := rfl
@[simp] theorem clearOut_out_taken : (s.clearOut).out.taken = false := rfl
@[simp] theorem clearOut_out_lltSteps : (s.clearOut).out.lltSteps = 0 := rfl
@[simp] theorem clearOut_acc : (s.clearOut).acc = s.acc := rfl
@[simp] theorem clearOut_readRam (ea' : Byte) : (s.clearOut).readRam ea' = s.readRam ea' := rfl
@[simp] theorem clearOut_programByte (at' : Addr) : (s.clearOut).programByte at' = s.programByte at' := rfl
@[simp] theorem clearOut_portAnswer : (s.clearOut).portAnswer = s.portAnswer := rfl
@[simp] theorem clearOut_cellAtI : (s.clearOut).cellAtI = s.cellAtI := rfl
@[simp] theorem clearOut_isPlaceholder (op' : Byte) : (s.clearOut).isPlaceholder op' = s.isPlaceholder op' := rfl

/-! ### Names for the updates above -/

@[simp] theorem toAA_eq : s.toAA = s.setDs .aa := rfl
@[simp] theorem toIdle_eq : s.toIdle = s.setDs s.ds.idle := rfl
@[simp] theorem toFlip_eq : s.toFlip = s.setDs s.ds.flip := rfl
@[simp] theorem fetchAt_eq (x : Addr) : s.fetchAt x = s.perform (.fetch x) := rfl
@[simp] theorem portWrite_eq (x : Port) (w : PortWord) : s.portWrite x w = s.perform (.portWrite x w) := rfl
@[simp] theorem direct_eq (n : BitVec 4) : s.direct n = s.setI (directAddr n s) := rfl
@[simp] theorem setI_cellAtI (ea : Byte) : (s.setI ea).cellAtI = s.readRam ea := rfl

end Sys2Proof.Machine
end

