-- ==== Sys2Proof/Laws/Ops.lean ====
section
/-! SUPPORT. One lemma for each shared operation: the whole state it leaves, field by field. Later proofs cite these
and do not unfold the operations. -/

namespace Sys2Proof.Machine

variable (s : State)

/-- `LOAD(v)` says all it writes: accumulator, pair, A0 flag, carry, dispatch state. -/
theorem loadAcc_eq (v : Word) :
    s.loadAcc v =
      { s with
        a := if s.ds.onB then s.a else v
        b := if s.ds.onB then v else s.b
        cmpOld := s.acc
        cmpNew := v
        accA0 := s.acc.getLsbD 0
        carry := BitVec.ofNat 16 s.acc.toNat
        ds := .aa } := rfl

/-- The add family: operand and raw result. -/
theorem aluResult_eq (v : Word) (raw : Nat) :
    s.aluResult v raw =
      { s with
        a := if s.ds.onB then s.a else BitVec.ofNat 12 raw
        b := if s.ds.onB then BitVec.ofNat 12 raw else s.b
        cmpOld := s.acc
        cmpNew := v
        accA0 := s.acc.getLsbD 0
        carry := BitVec.ofNat 16 raw
        ds := .aa } := rfl

/-- The compare writes flags and the dispatch state, and neither accumulator nor A0 flag. -/
theorem compareOp_eq (v : Word) :
    s.compareOp v =
      { s with
        cmpOld := s.acc
        cmpNew := v
        carry := BitVec.ofNat 16 (rawDifference s.acc v)
        ds := .aa } := rfl

/-- A shift entry is either a placeholder, or flags and then the data movement. -/
theorem shiftEntry_eq (op : Byte) (move : State → State) :
    s.shiftEntry op move = (if s.isPlaceholder op then s else move (s.shiftFlags op)).setDs .aa := by
  unfold State.shiftEntry
  split <;> rfl

theorem shiftFlags_eq (op : Byte) :
    s.shiftFlags op =
      { s with
        cmpOld := s.acc
        cmpNew := magic op
        accA0 := s.acc.getLsbD 0
        carry := BitVec.ofNat 16 ((magic op).toNat + s.acc.toNat) } := rfl

theorem shiftSingle_eq (f : Word → Word) :
    s.shiftSingle f =
      { s with a := if s.ds.onB then s.a else f s.acc, b := if s.ds.onB then f s.acc else s.b } := rfl

theorem shiftBothLeft_eq : s.shiftBothLeft = { s with a := lsl12 s.a, b := lsl12 s.b } := rfl

theorem shiftPairRight_eq :
    s.shiftPairRight =
      { s with a := if s.ds.onB then s.a else pairLow s.a s.b, b := asr12 s.b } := by
  unfold State.shiftPairRight
  split <;> rfl

/-- The A-side multiply step, both branches in one state. -/
theorem mulStepA_eq (m : Word) :
    s.mulStepA m =
      { s with
        a := pairLow s.a s.b
        b := if s.a.getLsbD 0 then BitVec.ofNat 12 ((asr12 s.b).toNat + m.toNat) else asr12 s.b
        cmpOld := if s.a.getLsbD 0 then s.b else s.a
        cmpNew := m
        accA0 := s.a.getLsbD 0
        carry := BitVec.ofNat 16 (if s.a.getLsbD 0 then (asr12 s.b).toNat + m.toNat else s.a.toNat + m.toNat)
        ds := .aa } := by
  unfold State.mulStepA
  cases h : s.a.getLsbD 0 <;> rfl

/-- The B-side multiply step. -/
theorem mulStepB_eq (m : Word) :
    s.mulStepB m =
      { s with
        b := if s.a.getLsbD 0 then BitVec.ofNat 12 ((asr12 s.b).toNat + m.toNat) else asr12 s.b
        cmpOld := s.b
        cmpNew := m
        accA0 := s.a.getLsbD 0
        carry := BitVec.ofNat 16 ((asr12 s.b).toNat + m.toNat)
        ds := .aa } := rfl

/-- The port-bit path of OUT: one read, one write, perhaps the signal. -/
theorem outPortBit_eq (k : Nat) :
    s.outPortBit k =
      { s with
        portIn := s.portIn.tail
        portReads := s.portReads + 1
        out :=
          { s.out with
            ops := s.out.ops ++ [.portRead .outputs s.portAnswer] ++
              [.portWrite .outputs (outWord s.portAnswer k (s.acc.getLsbD 0))]
            counterReset := s.out.counterReset || decide (k = 5) } } := rfl

/-- The two reads of JEI. -/
theorem readAxis_eq :
    s.readAxis =
      { s with
        portIn := s.portIn.tail.tail
        portReads := s.portReads + 1 + 1
        out :=
          { s.out with
            ops := s.out.ops ++ [.portRead .outputs s.portAnswer] ++
              [.portRead (axisPort s.portAnswer) s.axisAnswer] } } := rfl

theorem branch_eq (cond : Bool) (target : Addr) :
    s.branch cond target =
      { s with pc := if cond then target else s.pc, out := { s.out with taken := s.out.taken || cond } } := rfl

/-- The LLT loop: how far it shifts, that both registers agree at every earlier place, and why it stops. -/
theorem lltLoop_spec (fuel : Nat) (a b : Word) :
    (lltLoop fuel a b).1 ≤ fuel ∧
      (lltLoop fuel a b).2 = (a <<< (lltLoop fuel a b).1, b <<< (lltLoop fuel a b).1) ∧
      (∀ k, k < (lltLoop fuel a b).1 → agrees (a <<< k) = true ∧ agrees (b <<< k) = true) ∧
      ((lltLoop fuel a b).1 < fuel →
        ¬(agrees (a <<< (lltLoop fuel a b).1) = true ∧ agrees (b <<< (lltLoop fuel a b).1) = true)) := by
  induction fuel generalizing a b with
  | zero => simp [lltLoop]
  | succ fuel ih =>
    unfold lltLoop
    by_cases h : agrees a = true ∧ agrees b = true
    · obtain ⟨h1, h2, h3, h4⟩ := ih (lsl12 a) (lsl12 b)
      have shift (x : Word) (k : Nat) : lsl12 x <<< k = x <<< (k + 1) := by
        rw [lsl12, ← BitVec.shiftLeft_add, Nat.add_comm]
      simp only [h.1, h.2, Bool.and_self, if_true]
      simp only [shift] at h2 h3 h4
      refine ⟨by omega, h2, fun k hk => ?_, fun hlt => h4 (by omega)⟩
      cases k with
      | zero => simpa using h
      | succ k => exact h3 k (by omega)
    · have hc : (agrees a && agrees b) = false := by simpa using h
      simp only [hc]
      simpa using h

end Sys2Proof.Machine
end

