-- ==== Sys2Proof/Laws/PerInstr.lean ====
section
/-! SUPPORT. Facts about every instruction as syntax, one lemma per constructor. -/

namespace Sys2Proof.Laws

/-- The bytes of a well-formed instruction are as many as its opcode byte says (30_encoding.md R90, R103). -/
def EncodedLength.Statement (i : Instr) : Prop :=
  i.wellFormed = true → opLength ((encode i).headD 0) = (encode i).length

namespace EncodedLength

theorem ldai (n : BitVec 4) : Statement (.ldai n) := by
  unfold Statement
  revert n
  decide
theorem inp (n : BitVec 4) : Statement (.inp n) := by
  unfold Statement
  revert n
  decide
theorem addx (imm : Byte) : Statement (.addx imm) := fun _ => rfl
theorem addi (n : BitVec 4) : Statement (.addi n) := by
  unfold Statement
  revert n
  decide
theorem subx (imm : Byte) : Statement (.subx imm) := fun _ => rfl
theorem subi (n : BitVec 4) : Statement (.subi n) := by
  unfold Statement
  revert n
  decide
theorem ldji (target : Word) : Statement (.ldji target) := by
  intro _
  have h (n : BitVec 4) : opLength (opByte 0x4 n) = 2 := by
    revert n
    decide
  exact h _
theorem jppb : Statement .jppb := fun _ => by decide
theorem jmib : Statement .jmib := fun _ => by decide
theorem jeib : Statement .jeib := fun _ => by decide
theorem jdrb : Statement .jdrb := fun _ => by decide
theorem jltb : Statement .jltb := fun _ => by decide
theorem jeqb : Statement .jeqb := fun _ => by decide
theorem jncb : Statement .jncb := fun _ => by decide
theorem ja0b : Statement .ja0b := fun _ => by decide
theorem nopb : Statement .nopb := fun _ => by decide
theorem jmp : Statement .jmp := fun _ => by decide
theorem jmi : Statement .jmi := fun _ => by decide
theorem jei : Statement .jei := fun _ => by decide
theorem jdr : Statement .jdr := fun _ => by decide
theorem jlt : Statement .jlt := fun _ => by decide
theorem jeq : Statement .jeq := fun _ => by decide
theorem jnc : Statement .jnc := fun _ => by decide
theorem ja0 : Statement .ja0 := fun _ => by decide
theorem nop : Statement .nop := fun _ => by decide
theorem add (n : BitVec 4) : Statement (.add n) := by
  unfold Statement
  revert n
  decide
theorem sub (n : BitVec 4) : Statement (.sub n) := by
  unfold Statement
  revert n
  decide
theorem ldp (n : BitVec 4) : Statement (.ldp n) := by
  unfold Statement
  revert n
  decide
theorem out (n : BitVec 4) : Statement (.out n) := by
  unfold Statement
  revert n
  decide
theorem lda (n : BitVec 4) : Statement (.lda n) := by
  unfold Statement
  revert n
  decide
theorem cmp (n : BitVec 4) : Statement (.cmp n) := by
  unfold Statement
  revert n
  decide
theorem ldi (n : BitVec 4) : Statement (.ldi n) := by
  unfold Statement
  revert n
  decide
theorem sta (n : BitVec 4) : Statement (.sta n) := by
  unfold Statement
  revert n
  decide
theorem vdr : Statement .vdr := fun _ => by decide
theorem vin : Statement .vin := fun _ => by decide
theorem ldjr (v : Form) : Statement (.ldjr v) := fun _ => by cases v <;> decide
theorem xlt (v : Form) : Statement (.xlt v) := fun _ => by cases v <;> decide
theorem mul (v : Form) : Statement (.mul v) := fun _ => by cases v <;> decide
theorem llt (v : Form) : Statement (.llt v) := fun _ => by cases v <;> decide
theorem wai (v : Form) : Statement (.wai v) := fun _ => by cases v <;> decide
theorem star (v : Form) : Statement (.star v) := fun _ => by cases v <;> decide
theorem addr (v : Form) : Statement (.addr v) := fun _ => by cases v <;> decide
theorem subr (v : Form) : Statement (.subr v) := fun _ => by cases v <;> decide
theorem andr (v : Form) : Statement (.andr v) := fun _ => by cases v <;> decide
theorem ldar (v : Form) : Statement (.ldar v) := fun _ => by cases v <;> decide
theorem lsre : Statement .lsre := fun _ => by decide
theorem lsle : Statement .lsle := fun _ => by decide
theorem asre : Statement .asre := fun _ => by decide
theorem asrde : Statement .asrde := fun _ => by decide
theorem lslde : Statement .lslde := fun _ => by decide
theorem lsrf : Statement .lsrf := fun _ => by decide
theorem lslf : Statement .lslf := fun _ => by decide
theorem asrf : Statement .asrf := fun _ => by decide
theorem asrdf : Statement .asrdf := fun _ => by decide
theorem lsldf : Statement .lsldf := fun _ => by decide

end EncodedLength

end Sys2Proof.Laws
end

