-- ==== Sys2Proof/Laws/Run.lean ====
section
/-! SUPPORT. What the run loop and `run` answer, case by case. Later proofs cite these and do not unfold them. -/

namespace Sys2Proof.Machine

variable (c : CostModel) (fuel : Nat) (budget : Int) (s : State)

/-- A single step on a budget is the step and its charge. -/
theorem runOne_of_step {s t : State} (h : step s = .next t) :
    runOne c budget s = some ⟨t, budget - stepCharge c s.opByteAtPc t.out, [t.out]⟩ := by
  simp only [runOne, h]

/-- A spent budget executes nothing, whatever the bound. -/
theorem runLoop_spent {budget : Int} (h : budget ≤ 0) : runLoop c fuel budget s = some ⟨s, budget, []⟩ := by
  cases fuel <;> simp only [runLoop, h, if_true]

/-- With budget left and no step allowed, the loop answers nothing. -/
theorem runLoop_zero {budget : Int} (h : 0 < budget) : runLoop c 0 budget s = none := by
  simp only [runLoop, Int.not_le.mpr h, if_false]

/-- With budget left, the loop makes a step and goes on with what the step left of the budget. -/
theorem runLoop_step {budget : Int} {s t : State} (hb : 0 < budget) (h : step s = .next t) :
    runLoop c (fuel + 1) budget s =
      (runLoop c fuel (budget - stepCharge c s.opByteAtPc t.out) t).map (RunResult.after t.out) := by
  simp only [runLoop, Int.not_le.mpr hb, if_false, h]

/-- A budget of 1 is one step. -/
theorem run_one : run c fuel 1 s = runOne c 1 s := rfl

/-- Every other budget runs the loop. -/
theorem run_of_ne_one {budget : Int} (h : budget ≠ 1) : run c fuel budget s = runLoop c fuel budget s := if_neg h

@[simp] theorem after_state (o : StepOut) (r : RunResult) : (r.after o).state = r.state := rfl
@[simp] theorem after_remaining (o : StepOut) (r : RunResult) : (r.after o).remaining = r.remaining := rfl
@[simp] theorem after_outs (o : StepOut) (r : RunResult) : (r.after o).outs = o :: r.outs := rfl
@[simp] theorem after_consumed (o : StepOut) (r : RunResult) : (r.after o).consumed budget = r.consumed budget := rfl

end Sys2Proof.Machine
end

