-- ==== Sys2Proof/Tests/Slice0.lean ====
section
/-! SUPPORT. Tests: the checks of WellFormed and of the memory form on ill-formed terms; words of the encoding tables
decoded; single steps, with the values of 95_test_vectors.md (worked by hand from the spec's rules); and for every
obligation with hypotheses a state and operands that meet them. -/

namespace Sys2Proof.Tests

open Sys2Proof.Machine

/-! ### Well-formedness -/

theorem test_wellFormed_refuses_addi_zero : (Instr.addi 0).wellFormed = false := by decide

theorem test_wellFormed_refuses_subi_zero : (Instr.subi 0).wellFormed = false := by decide

theorem test_available_refuses_jumps_of_other_polarity :
    Instr.availableUnder .jeiMode .jmi = false ∧ Instr.availableUnder .jeiMode .jmib = false ∧
      Instr.availableUnder .jmiMode .jei = false ∧ Instr.availableUnder .jmiMode .jeib = false := by decide

theorem test_ramWf_refuses_ill_formed :
    ramWf [(5, 1), (4, 1)] = false ∧ ramWf [(5, 1), (5, 2)] = false ∧ ramWf [(5, 0)] = false ∧
      ramWf [(256, 1)] = false := by decide

theorem test_programWf_refuses_ill_formed :
    programWf [(5, 1), (4, 1)] = false ∧ programWf [(5, 1), (5, 1)] = false ∧ programWf [(65536, 1)] = false := by decide

/-! ### Decoding: bytes of 30_encoding.md R95, R96 and R97, written out -/

/-- R95, groups 0x0 to 0x3. -/
theorem test_decode_immediates :
    decodeTableWord 8 0x05 = some (.ldai 5) ∧ decodeTableWord 8 0x1F = some (.inp 15) ∧
      decodeTableWord 16 0x8020 = some (.addx 0x80) ∧ decodeTableWord 8 0x21 = some (.addi 1) ∧
      decodeTableWord 16 0x0130 = some (.subx 1) ∧ decodeTableWord 8 0x3F = some (.subi 15) := by decide

/-- R93: LDJI carries J[3:0] in the opcode byte, J[7:4] and J[11:8] in the high and the low nibble of the next. -/
theorem test_decode_ldji : decodeTableWord 16 0xA14B = some (.ldji 0x1AB) ∧ encode (.ldji 0x1AB) = [0x4B, 0xA1] := by
  decide

/-- R96, the B-flip column under JMI_MODE. -/
theorem test_decode_flip_jumps :
    decodeTableWord 8 0x50 = some .jppb ∧ decodeTableWord 8 0x51 = some .jmib ∧ decodeTableWord 8 0x52 = some .jdrb ∧
      decodeTableWord 8 0x53 = some .jltb ∧ decodeTableWord 8 0x54 = some .jeqb ∧ decodeTableWord 8 0x55 = some .jncb ∧
      decodeTableWord 8 0x56 = some .ja0b ∧ decodeTableWord 8 0x57 = some .nopb := by decide

/-- R96, the plain column under JMI_MODE. -/
theorem test_decode_plain_jumps :
    decodeTableWord 8 0x58 = some .jmp ∧ decodeTableWord 8 0x59 = some .jmi ∧ decodeTableWord 8 0x5A = some .jdr ∧
      decodeTableWord 8 0x5B = some .jlt ∧ decodeTableWord 8 0x5C = some .jeq ∧ decodeTableWord 8 0x5D = some .jnc ∧
      decodeTableWord 8 0x5E = some .ja0 ∧ decodeTableWord 8 0x5F = some .nop := by decide

/-- 40_dispatch.md R131: under JEI_MODE 0x51 and 0x59 are JEIB and JEI. -/
theorem test_decode_jei_mode : decodeOp .jeiMode 0x51 0 = .jeib ∧ decodeOp .jeiMode 0x59 0 = .jei := by decide

/-- R95, groups 0x6 to 0xD. -/
theorem test_decode_direct :
    decodeTableWord 8 0x65 = some (.add 5) ∧ decodeTableWord 8 0x72 = some (.sub 2) ∧
      decodeTableWord 8 0x8C = some (.ldp 12) ∧ decodeTableWord 8 0x96 = some (.out 6) ∧
      decodeTableWord 8 0xA3 = some (.lda 3) ∧ decodeTableWord 8 0xB4 = some (.cmp 4) ∧
      decodeTableWord 8 0xC4 = some (.ldi 4) ∧ decodeTableWord 8 0xD7 = some (.sta 7) := by decide

/-- R97, the instructions with two alias bytes. -/
theorem test_decode_aliases :
    decodeTableWord 8 0xE1 = some (.ldjr .e) ∧ decodeTableWord 8 0xF2 = some (.xlt .f) ∧
      decodeTableWord 8 0xE3 = some (.mul .e) ∧ decodeTableWord 8 0xF4 = some (.llt .f) ∧
      decodeTableWord 8 0xE5 = some (.wai .e) ∧ decodeTableWord 8 0xF6 = some (.star .f) ∧
      decodeTableWord 8 0xE7 = some (.addr .e) ∧ decodeTableWord 8 0xF8 = some (.subr .f) ∧
      decodeTableWord 8 0xE9 = some (.andr .e) ∧ decodeTableWord 8 0xFA = some (.ldar .f) := by decide

/-- R97, the vector unit and the shifts. -/
theorem test_decode_vector_and_shifts :
    decodeTableWord 8 0xE0 = some .vdr ∧ decodeTableWord 8 0xF0 = some .vin ∧ decodeTableWord 8 0xEB = some .lsre ∧
      decodeTableWord 8 0xEC = some .lsle ∧ decodeTableWord 8 0xED = some .asre ∧ decodeTableWord 8 0xEE = some .asrde ∧
      decodeTableWord 8 0xEF = some .lslde ∧ decodeTableWord 8 0xFB = some .lsrf ∧ decodeTableWord 8 0xFC = some .lslf ∧
      decodeTableWord 8 0xFD = some .asrf ∧ decodeTableWord 8 0xFE = some .asrdf ∧
      decodeTableWord 8 0xFF = some .lsldf := by decide

/-- R103: the edges of the two-byte opcodes. -/
theorem test_lengths :
    opLength 0x1F = 1 ∧ opLength 0x20 = 2 ∧ opLength 0x21 = 1 ∧ opLength 0x30 = 2 ∧ opLength 0x31 = 1 ∧
      opLength 0x3F = 1 ∧ opLength 0x40 = 2 ∧ opLength 0x4F = 2 ∧ opLength 0x50 = 1 := by decide

/-! ### Single steps -/

/-- Program bytes from an address up. -/
def program : Addr → List Byte → State → State
  | _, [], s => s
  | addr, x :: rest, s => program (addr + 1) rest (s.storeProgram addr x)

/-- One step from the state, with the bytes at its PC, answers a next state that passes the check. -/
def stepsTo (bytes : List Byte) (s : State) (check : State → Bool) : Bool :=
  match step (program s.pc bytes s) with
  | .next t => check t
  | .fault _ => false
  | .refused _ => false

/-- The port writes and draw requests of the step. -/
def observed (t : State) (ops : List IfaceOp) : Bool := decide (t.out.ops.filter IfaceOp.observable = ops)

/-- 95_test_vectors.md, V2. -/
theorem test_ldai_loads_b_side :
    stepsTo [0x0F]
      { State.reset with a := 0x001, b := 0x7FF, ds := .b }
      (fun t => t.pc == 0x0001 && t.b == 0xF00 && t.cmpOld == 0x7FF && t.cmpNew == 0xF00 && t.accA0 &&
        t.carry == 0x07FF && t.ds == .aa) := by decide

/-- 95_test_vectors.md, V131. -/
theorem test_inp_b_side_reads_switches :
    stepsTo [0x1F]
      { State.reset with a := 0x123, b := 0x456, ds := .b, portIn := [0x0080] }
      (fun t => t.pc == 0x0001 && t.b == 0x001 && t.cmpOld == 0x456 && t.cmpNew == 0x001 && t.carry == 0x0456 &&
        t.ds == .aa) := by decide

/-- 95_test_vectors.md, V130. -/
theorem test_inp_a_side_reads_inputs :
    stepsTo [0x1F]
      { State.reset with a := 0x123, portIn := [0x8000] }
      (fun t => t.pc == 0x0001 && t.a == 0x001 && t.cmpOld == 0x123 && t.cmpNew == 0x001 && t.accA0 &&
        t.carry == 0x0123 && t.ds == .aa) := by decide

/-- 95_test_vectors.md, V24. -/
theorem test_addx_carries :
    stepsTo [0x20, 0xFF]
      { State.reset with a := 0xF80 }
      (fun t => t.pc == 0x0002 && t.a == 0x07F && t.cmpOld == 0xF80 && t.cmpNew == 0x0FF && t.carry == 0x107F &&
        t.ds == .aa) := by decide

/-- 95_test_vectors.md, V20. -/
theorem test_addi_wraps :
    stepsTo [0x21]
      { State.reset with a := 0xFFF }
      (fun t => t.pc == 0x0001 && t.a == 0x000 && t.cmpOld == 0xFFF && t.cmpNew == 0x001 && t.accA0 &&
        t.carry == 0x1000 && t.ds == .aa) := by decide

/-- 95_test_vectors.md, V22. -/
theorem test_addi_b_side :
    stepsTo [0x23]
      { State.reset with b := 0xFFE, a := 0x111, ds := .bb }
      (fun t => t.pc == 0x0001 && t.b == 0x001 && t.cmpOld == 0xFFE && t.cmpNew == 0x003 && t.carry == 0x1001 &&
        t.ds == .aa) := by decide

/-- 95_test_vectors.md, V32. -/
theorem test_subx_zero_carries :
    stepsTo [0x30, 0x00]
      { State.reset with a := 0x123 }
      (fun t => t.pc == 0x0002 && t.cmpOld == 0x123 && t.accA0 && t.carry == 0x1123 && t.ds == .aa) := by decide

/-- 95_test_vectors.md, V33. -/
theorem test_subx_borrows :
    stepsTo [0x30, 0xFF]
      { State.reset with a := 0x0FE }
      (fun t => t.pc == 0x0002 && t.a == 0xFFF && t.cmpOld == 0x0FE && t.cmpNew == 0x0FF && t.carry == 0x0FFF &&
        t.ds == .aa) := by decide

/-- 95_test_vectors.md, V29. -/
theorem test_subi_borrows :
    stepsTo [0x31]
      { State.reset with a := 0x000 }
      (fun t => t.pc == 0x0001 && t.a == 0xFFF && t.cmpNew == 0x001 && t.carry == 0x0FFF && t.ds == .aa) := by decide

/-- 95_test_vectors.md, V31. -/
theorem test_subi_to_zero :
    stepsTo [0x3F]
      { State.reset with a := 0x00F, ds := .aa }
      (fun t => t.pc == 0x0001 && t.a == 0x000 && t.cmpOld == 0x00F && t.cmpNew == 0x00F && t.accA0 &&
        t.carry == 0x1000 && t.ds == .aa) := by decide

/-- 95_test_vectors.md, V13. -/
theorem test_ldji_nibble_order :
    stepsTo [0x4B, 0xA1]
      State.reset
      (fun t => t.pc == 0x0002 && t.j == 0x1AB && t.ds == .a) := by decide

/-- 95_test_vectors.md, V111. -/
theorem test_jppb_page_wraps :
    stepsTo [0x50]
      { State.reset with j := 0x234, p := 0x0, addressSpaceSize := .msize8K }
      (fun t => t.pc == 0x3234 && t.ds == .b && t.out.taken) := by decide

/-- 95_test_vectors.md, V109. -/
theorem test_jppb_16k :
    stepsTo [0x50]
      { State.reset with j := 0x234, p := 0x5, ds := .b, addressSpaceSize := .msize16K }
      (fun t => t.pc == 0x1234 && t.ds == .b && t.out.taken) := by decide

/-- 95_test_vectors.md, V113. -/
theorem test_jmib_taken :
    stepsTo [0x51]
      { State.reset with j := 0x100, a := 0x800 }
      (fun t => t.pc == 0x0100 && t.ds == .b && t.out.taken) := by decide

/-- 95_test_vectors.md, V114. -/
theorem test_jmib_tests_lagged_value :
    stepsTo [0x51]
      { State.reset with j := 0x100, a := 0x7FF, cmpOld := 0x7FF, ds := .aa }
      (fun t => t.pc == 0x0001 && t.ds == .bb) := by decide

/-- 95_test_vectors.md, V115. -/
theorem test_jeib_reads_joyx :
    stepsTo [0x51]
      { State.reset with j := 0x100, fromX := 0x000, jumpPolarity := .jeiMode, portIn := [0x0080, 0x07FF] }
      (fun t => t.pc == 0x0100 && t.ds == .b && t.out.taken) := by decide

/-- 95_test_vectors.md, V116. -/
theorem test_jdrb_flips_aa :
    stepsTo [0x52]
      { State.reset with j := 0x100, ds := .aa }
      (fun t => t.pc == 0x0001 && t.ds == .bb) := by decide

/-- 95_test_vectors.md, V117. -/
theorem test_jltb_taken :
    stepsTo [0x53]
      { State.reset with j := 0x100, cmpOld := 0x002, cmpNew := 0x001, ds := .aa }
      (fun t => t.pc == 0x0100 && t.ds == .bb && t.out.taken) := by decide

/-- 95_test_vectors.md, V118. -/
theorem test_jeqb_not_taken :
    stepsTo [0x54]
      { State.reset with j := 0x100, cmpOld := 0x002, cmpNew := 0x001, ds := .b }
      (fun t => t.pc == 0x0001 && t.ds == .b) := by decide

/-- 95_test_vectors.md, V119. -/
theorem test_jncb_taken :
    stepsTo [0x55]
      { State.reset with j := 0x100, carry := 0x0000, ds := .bb }
      (fun t => t.pc == 0x0100 && t.ds == .b && t.out.taken) := by decide

/-- 95_test_vectors.md, V120. -/
theorem test_ja0b_taken :
    stepsTo [0x56]
      { State.reset with j := 0x100, accA0 := true }
      (fun t => t.pc == 0x0100 && t.ds == .b && t.out.taken) := by decide

/-- 95_test_vectors.md, V124. -/
theorem test_nopb_in_bb :
    stepsTo [0x57]
      { State.reset with ds := .bb }
      (fun t => t.pc == 0x0001 && t.ds == .b) := by decide

/-- 95_test_vectors.md, V81. -/
theorem test_jmp_at_page_end :
    stepsTo [0x58]
      { State.reset with pc := 0x2FFF, j := 0xFFF, ds := .bb }
      (fun t => t.pc == 0x2FFF && t.ds == .b && t.out.taken) := by decide

/-- 95_test_vectors.md, V86. -/
theorem test_jmi_b_side_reads_b :
    stepsTo [0x59]
      { State.reset with j := 0x100, a := 0x800, b := 0x7FF, ds := .b }
      (fun t => t.pc == 0x0001 && t.ds == .b) := by decide

/-- 95_test_vectors.md, V85. -/
theorem test_jmi_in_aa_reads_cmp_old :
    stepsTo [0x59]
      { State.reset with j := 0x100, a := 0x000, cmpOld := 0x800, ds := .aa }
      (fun t => t.pc == 0x0100 && t.ds == .a && t.out.taken) := by decide

/-- 95_test_vectors.md, V89. -/
theorem test_jei_reads_joyx :
    stepsTo [0x59]
      { State.reset with j := 0x100, fromX := 0x010, jumpPolarity := .jeiMode, portIn := [0x0080, 0x0000] }
      (fun t => t.pc == 0x0100 && t.ds == .a && t.out.taken) := by decide

/-- 95_test_vectors.md, V91. -/
theorem test_jei_signed_origin :
    stepsTo [0x59]
      { State.reset with j := 0x100, fromX := 0x801, jumpPolarity := .jeiMode, portIn := [0x0000, 0x0000] }
      (fun t => t.pc == 0x0100 && t.ds == .a && t.out.taken) := by decide

/-- 95_test_vectors.md, V93. -/
theorem test_jdr_keeps_aa :
    stepsTo [0x5A]
      { State.reset with j := 0x100, a := 0x800, ds := .aa }
      (fun t => t.pc == 0x0001 && t.ds == .aa) := by decide

/-- 95_test_vectors.md, V96. -/
theorem test_jlt_is_unsigned :
    stepsTo [0x5B]
      { State.reset with j := 0x0AB, cmpOld := 0x7FF, cmpNew := 0x800, ds := .aa }
      (fun t => t.pc == 0x0001 && t.ds == .a) := by decide

/-- 95_test_vectors.md, V94. -/
theorem test_jlt_page_of_opcode :
    stepsTo [0x5B]
      { State.reset with pc := 0x1234, j := 0x0AB, cmpOld := 0x100, cmpNew := 0x050, ds := .aa }
      (fun t => t.pc == 0x10AB && t.ds == .a && t.out.taken) := by decide

/-- 95_test_vectors.md, V98. -/
theorem test_jeq_taken :
    stepsTo [0x5C]
      { State.reset with j := 0x0AB, cmpOld := 0x123, cmpNew := 0x123, ds := .aa }
      (fun t => t.pc == 0x00AB && t.ds == .a && t.out.taken) := by decide

/-- 95_test_vectors.md, V101. -/
theorem test_jnc_not_taken :
    stepsTo [0x5D]
      { State.reset with j := 0x0AB, carry := 0x1000, ds := .aa }
      (fun t => t.pc == 0x0001 && t.ds == .a) := by decide

/-- 95_test_vectors.md, V104. -/
theorem test_ja0_ignores_live_bit :
    stepsTo [0x5E]
      { State.reset with j := 0x0AB, accA0 := false, a := 0x001, ds := .aa }
      (fun t => t.pc == 0x0001 && t.ds == .a) := by decide

/-- 95_test_vectors.md, V106. -/
theorem test_nop_keeps_bb :
    stepsTo [0x5F]
      { State.reset with j := 0x0AB, ds := .bb }
      (fun t => t.pc == 0x0001 && t.ds == .bb) := by decide

/-- 95_test_vectors.md, V26. -/
theorem test_add_largest_sum :
    stepsTo [0x6F]
      { State.reset with p := 0xF, a := 0xFFF, ram := [(0xFF, 0xFFF)] }
      (fun t => t.pc == 0x0001 && t.a == 0xFFE && t.i == 0xFF && t.cmpOld == 0xFFF && t.cmpNew == 0xFFF &&
        t.accA0 && t.carry == 0x1FFE && t.ds == .aa) := by decide

/-- 95_test_vectors.md, V34. -/
theorem test_sub_direct :
    stepsTo [0x72]
      { State.reset with p := 0x0, a := 0x800, ram := [(0x02, 0xFFF)] }
      (fun t => t.pc == 0x0001 && t.a == 0x801 && t.i == 0x02 && t.cmpOld == 0x800 && t.cmpNew == 0xFFF &&
        t.carry == 0x0801 && t.ds == .aa) := by decide

/-- 95_test_vectors.md, V17. -/
theorem test_ldp_keeps_i :
    stepsTo [0x8C]
      { State.reset with p := 0x3, ds := .b }
      (fun t => t.pc == 0x0001 && t.p == 0xC && t.ds == .b) := by decide

/-- 95_test_vectors.md, V137. -/
theorem test_out_counter_reset :
    stepsTo [0x95]
      { State.reset with a := 0x000, ds := .aa, portIn := [0x0001] }
      (fun t => t.pc == 0x0001 && t.ds == .a && observed t [.portWrite .outputs 0x21] &&
        t.out.counterReset) := by decide

/-- 95_test_vectors.md, V142. -/
theorem test_out_level16_zero_nibble :
    stepsTo [0x96]
      { State.reset with a := 0x000, fromX := 0xAB0, vgColour := 0x09, monitorMode := .level16 }
      (fun t => t.pc == 0x0001 && t.vgColour == 0x01 && t.ds == .a) := by decide

/-- 95_test_vectors.md, V6. -/
theorem test_lda_last_cell :
    stepsTo [0xAF]
      { State.reset with p := 0xF, b := 0x800, ds := .b, ram := [(0xFF, 0xFFF)] }
      (fun t => t.pc == 0x0001 && t.b == 0xFFF && t.i == 0xFF && t.cmpOld == 0x800 && t.cmpNew == 0xFFF &&
        t.carry == 0x0800 && t.ds == .aa) := by decide

/-- 95_test_vectors.md, V37. -/
theorem test_cmp_keeps_accumulator_and_a0 :
    stepsTo [0xB4]
      { State.reset with p := 0x0, a := 0x100, accA0 := true, ram := [(0x04, 0x050)] }
      (fun t => t.pc == 0x0001 && t.i == 0x04 && t.cmpOld == 0x100 && t.cmpNew == 0x050 && t.carry == 0x10B0 &&
        t.ds == .aa && t.a == 0x100 && t.accA0) := by decide

/-- 95_test_vectors.md, V40. -/
theorem test_cmp_b_side :
    stepsTo [0xB0]
      { State.reset with p := 0x5, b := 0x001, a := 0x002, ds := .b, ram := [(0x50, 0x000)] }
      (fun t => t.pc == 0x0001 && t.i == 0x50 && t.cmpOld == 0x001 && t.carry == 0x1001 && t.ds == .aa) := by decide

/-- 95_test_vectors.md, V18. -/
theorem test_ldi_low_byte :
    stepsTo [0xC4]
      { State.reset with p := 0x2, ram := [(0x24, 0xF37)] }
      (fun t => t.pc == 0x0001 && t.i == 0x37 && t.ds == .a) := by decide

/-- 95_test_vectors.md, V10. -/
theorem test_sta_stores_b :
    stepsTo [0xD0]
      { State.reset with p := 0x0, a := 0x5A5, b := 0xA5A, ds := .bb }
      (fun t => t.pc == 0x0001 && t.ds == .b && t.readRam 0x00 == 0xA5A) := by decide

/-- 95_test_vectors.md, V151. -/
theorem test_vdr_floors_negative :
    stepsTo [0xE0]
      { State.reset with a := 0x005, b := 0xFFB, vgShiftLength := 0x01, vgColour := 0x03, ds := .b }
      (fun t => t.pc == 0x0001 && t.ds == .b && observed t [.emitVector 0 0 2 (-3) 3]) := by decide

/-- 95_test_vectors.md, V150. -/
theorem test_vdr_extremes :
    stepsTo [0xE0]
      { State.reset with fromX := 0x800, fromY := 0x7FF, a := 0x7FF, b := 0x800, vgColour := 0x01 }
      (fun t => t.pc == 0x0001 && t.ds == .a && observed t [.emitVector (-2048) 2047 2047 (-2048) 1]) := by decide

/-- 95_test_vectors.md, V147. -/
theorem test_vin_in_bb :
    stepsTo [0xF0]
      { State.reset with a := 0x123, b := 0xFED, ds := .bb }
      (fun t => t.pc == 0x0001 && t.fromX == 0x123 && t.fromY == 0xFED && t.ds == .b) := by decide

/-- 95_test_vectors.md, V16. -/
theorem test_ldjr_loads_j :
    stepsTo [0xE1]
      { State.reset with i := 0x10, ds := .aa, ram := [(0x10, 0x9AB)] }
      (fun t => t.pc == 0x0001 && t.j == 0x9AB && t.ds == .a) := by decide

/-- 95_test_vectors.md, V53. -/
theorem test_xlt_across_top :
    stepsTo [0xE2]
      (({ State.reset with pc := 0xFFFF, a := 0x010 } : State).storeProgram 0xF010 0x01)
      (fun t => t.pc == 0x0001 && t.a == 0x001 && t.cmpOld == 0x010 && t.cmpNew == 0x001 && t.carry == 0x0010 &&
        t.ds == .aa) := by decide

/-- 95_test_vectors.md, V52. -/
theorem test_xlt_b_side_page :
    stepsTo [0xE2]
      (({ State.reset with pc := 0x1FFF, b := 0x000, a := 0x555, ds := .b } : State).storeProgram 0x1000 0x42)
      (fun t => t.pc == 0x2001 && t.b == 0x042 && t.cmpNew == 0x042 && t.ds == .aa) := by decide

/-- 95_test_vectors.md, V57. -/
theorem test_mul_even_adds_to_carry_only :
    stepsTo [0xE3]
      { State.reset with a := 0x000, b := 0x801, i := 0x10, ram := [(0x10, 0x123)] }
      (fun t => t.pc == 0x0001 && t.a == 0x800 && t.b == 0xC00 && t.cmpNew == 0x123 && t.carry == 0x0123 &&
        t.ds == .aa) := by decide

/-- 95_test_vectors.md, V59. -/
theorem test_mul_b_side_even :
    stepsTo [0xE3]
      { State.reset with a := 0x002, b := 0x800, i := 0x10, ds := .bb, ram := [(0x10, 0x400)] }
      (fun t => t.pc == 0x0001 && t.b == 0xC00 && t.cmpOld == 0x800 && t.cmpNew == 0x400 && t.carry == 0x1000 &&
        t.ds == .aa) := by decide

/-- 95_test_vectors.md, V154. -/
theorem test_llt_nine_steps :
    stepsTo [0xE4]
      { State.reset with a := 0x001, b := 0xFFF, ds := .b }
      (fun t => t.pc == 0x0001 && t.a == 0x200 && t.b == 0xE00 && t.vgShiftLength == 0x09 && t.ds == .aa) := by decide

/-- 95_test_vectors.md, V155. -/
theorem test_llt_two_steps :
    stepsTo [0xF4]
      { State.reset with a := 0xA00, b := 0x010, ds := .aa }
      (fun t => t.pc == 0x0001 && t.a == 0x800 && t.b == 0x040 && t.vgShiftLength == 0x02 && t.ds == .aa) := by decide

/-- 95_test_vectors.md, V159. -/
theorem test_wai_in_bb :
    stepsTo [0xF5]
      { State.reset with ds := .bb }
      (fun t => t.pc == 0x0001 && t.ds == .b && t.out.waitRequest) := by decide

/-- 95_test_vectors.md, V12. -/
theorem test_star_stores_b :
    stepsTo [0xF6]
      { State.reset with i := 0x80, b := 0x00C, ds := .b }
      (fun t => t.pc == 0x0001 && t.ds == .b && t.readRam 0x80 == 0x00C) := by decide

/-- 95_test_vectors.md, V27. -/
theorem test_addr_b_side :
    stepsTo [0xE7]
      { State.reset with i := 0x21, b := 0x800, ds := .b, ram := [(0x21, 0x800)] }
      (fun t => t.pc == 0x0001 && t.b == 0x000 && t.cmpOld == 0x800 && t.cmpNew == 0x800 && t.carry == 0x1000 &&
        t.ds == .aa) := by decide

/-- 95_test_vectors.md, V36. -/
theorem test_subr_b_side :
    stepsTo [0xE8]
      { State.reset with i := 0x33, b := 0x100, ds := .bb, ram := [(0x33, 0x001)] }
      (fun t => t.pc == 0x0001 && t.b == 0x0FF && t.cmpOld == 0x100 && t.cmpNew == 0x001 && t.carry == 0x10FF &&
        t.ds == .aa) := by decide

/-- 95_test_vectors.md, V42. -/
theorem test_andr_overwrites_carry :
    stepsTo [0xF9]
      { State.reset with i := 0x01, a := 0xFFF, carry := 0x1FFF, ram := [(0x01, 0x000)] }
      (fun t => t.pc == 0x0001 && t.a == 0x000 && t.cmpOld == 0xFFF && t.accA0 && t.carry == 0x0000 &&
        t.ds == .aa) := by decide

/-- 95_test_vectors.md, V7. -/
theorem test_ldar_loads :
    stepsTo [0xEA]
      { State.reset with i := 0x42, a := 0x111, ram := [(0x42, 0x222)] }
      (fun t => t.pc == 0x0001 && t.a == 0x222 && t.cmpOld == 0x111 && t.cmpNew == 0x222 && t.accA0 &&
        t.carry == 0x0111 && t.ds == .aa) := by decide

/-- 95_test_vectors.md, V61. -/
theorem test_lsre_b_side :
    stepsTo [0xEB]
      { State.reset with a := 0x111, b := 0x001, ds := .b }
      (fun t => t.pc == 0x0001 && t.b == 0x000 && t.cmpOld == 0x001 && t.cmpNew == 0xBEB && t.accA0 &&
        t.carry == 0x0BEC && t.ds == .aa) := by decide

/-- 95_test_vectors.md, V62. -/
theorem test_lsle_loses_top_bit :
    stepsTo [0xEC]
      { State.reset with a := 0x801 }
      (fun t => t.pc == 0x0001 && t.a == 0x002 && t.cmpOld == 0x801 && t.cmpNew == 0xCEC && t.accA0 &&
        t.carry == 0x14ED && t.ds == .aa) := by decide

/-- 95_test_vectors.md, V64. -/
theorem test_asre_keeps_sign :
    stepsTo [0xED]
      { State.reset with a := 0x802 }
      (fun t => t.pc == 0x0001 && t.a == 0xC01 && t.cmpOld == 0x802 && t.cmpNew == 0xDED && t.carry == 0x15EF &&
        t.ds == .aa) := by decide

/-- 95_test_vectors.md, V67. -/
theorem test_asrde_moves_pair :
    stepsTo [0xEE]
      { State.reset with a := 0x802, b := 0x801 }
      (fun t => t.pc == 0x0001 && t.a == 0xC01 && t.b == 0xC00 && t.cmpOld == 0x802 && t.cmpNew == 0xEEE &&
        t.carry == 0x16F0 && t.ds == .aa) := by decide

/-- 95_test_vectors.md, V68. -/
theorem test_asrde_b_side :
    stepsTo [0xEE]
      { State.reset with a := 0x802, b := 0x801, ds := .b }
      (fun t => t.pc == 0x0001 && t.b == 0xC00 && t.cmpOld == 0x801 && t.cmpNew == 0xEEE && t.accA0 &&
        t.carry == 0x16EF && t.ds == .aa) := by decide

/-- 95_test_vectors.md, V69. -/
theorem test_lslde_both :
    stepsTo [0xEF]
      { State.reset with a := 0x801, b := 0xC03 }
      (fun t => t.pc == 0x0001 && t.a == 0x002 && t.b == 0x806 && t.cmpOld == 0x801 && t.cmpNew == 0xFEF &&
        t.accA0 && t.carry == 0x17F0 && t.ds == .aa) := by decide

/-- 95_test_vectors.md, V70. -/
theorem test_lslde_b_side_placeholder :
    stepsTo [0xEF]
      { State.reset with a := 0x801, b := 0xC03, carry := 0x0777, ds := .b }
      (fun t => t.pc == 0x0001 && t.ds == .aa && t.a == 0x801 && t.b == 0xC03 && t.cmpNew == 0) := by decide

/-- 95_test_vectors.md, V71. -/
theorem test_lsrf_placeholder :
    stepsTo [0xFB]
      { State.reset with a := 0x803, carry := 0x0777, cmpOld := 0x001, cmpNew := 0x002 }
      (fun t => t.pc == 0x0001 && t.ds == .aa && t.a == 0x803 && t.b == 0 && t.cmpNew == 0x002) := by decide

/-- 95_test_vectors.md, V72. -/
theorem test_lslf_placeholder :
    stepsTo [0xFC]
      { State.reset with b := 0x803, ds := .b }
      (fun t => t.pc == 0x0001 && t.ds == .aa && t.a == 0 && t.b == 0x803 && t.cmpNew == 0) := by decide

/-- 95_test_vectors.md, V73. -/
theorem test_asrf_placeholder :
    stepsTo [0xFD]
      { State.reset with a := 0x803, ds := .aa }
      (fun t => t.pc == 0x0001 && t.ds == .aa && t.a == 0x803 && t.b == 0 && t.cmpNew == 0) := by decide

/-- 95_test_vectors.md, V74. -/
theorem test_asrdf_moves_pair :
    stepsTo [0xFE]
      { State.reset with a := 0x003, b := 0x001 }
      (fun t => t.pc == 0x0001 && t.a == 0x801 && t.b == 0x000 && t.cmpOld == 0x003 && t.cmpNew == 0xEFE &&
        t.accA0 && t.carry == 0x0F01 && t.ds == .aa) := by decide

/-- 95_test_vectors.md, V76. -/
theorem test_lsldf_both :
    stepsTo [0xFF]
      { State.reset with a := 0x801, b := 0xC03, ds := .aa }
      (fun t => t.pc == 0x0001 && t.a == 0x002 && t.b == 0x806 && t.cmpOld == 0x801 && t.cmpNew == 0xFFF &&
        t.accA0 && t.carry == 0x1800 && t.ds == .aa) := by decide

/-- 70_reset_and_hazards.md R315: a value is reduced to the width of the register. -/
theorem test_setRegister_reduces :
    ((State.reset.setRegister 1 0x1FFF).map fun t => t.a) = some 0xFFF ∧
      ((State.reset.setRegister 15 7).map fun t => t.ds) = some .bb := by decide

/-- What a run on a budget of 1 consumes under the default costs and a wait penalty of 9, and how many steps it makes. -/
def runsOnBudgetOne (bytes : List Byte) (s : State) : Option (Int × Nat) :=
  (run (defaultCosts 9) 1 1 (program s.pc bytes s)).map fun r => (r.consumed 1, r.outs.length)

/-- 95_test_vectors.md, S10: ADDX, a taken JMP and WAI on a budget of 1. -/
theorem test_run_budget_one :
    runsOnBudgetOne [0x20, 0x05] State.reset = some (2, 1) ∧ runsOnBudgetOne [0x58] State.reset = some (3, 1) ∧
      runsOnBudgetOne [0xE5] State.reset = some (9, 1) := by decide

/-- 70_reset_and_hazards.md R311: LLT costs nothing by default (R330), and a budget of 1 still runs it alone. -/
theorem test_run_budget_one_llt : runsOnBudgetOne [0xE4, 0x5F] { State.reset with a := 0x200 } = some (0, 1) := by decide

/-! ### The hypotheses of the obligations are met -/

theorem witness_DecodeOfEncode :
    (Instr.addi 1).wellFormed = true ∧ (Instr.addi 1).availableUnder .jmiMode = true ∧
      Instr.wellFormed .jei = true ∧ Instr.availableUnder .jeiMode .jei = true := by decide

/-- A one-byte and a two-byte instruction at PC. -/
theorem witness_StepRunsDecodedInstruction :
    decode State.reset.jumpPolarity
        [(program 0 [0x5F, 0x00] State.reset).programByte 0, (program 0 [0x5F, 0x00] State.reset).programByte (0 + 1)] =
      .ok (.nop, [0x00]) ∧
    decode State.reset.jumpPolarity
        [(program 0 [0x4B, 0xA1] State.reset).programByte 0, (program 0 [0x4B, 0xA1] State.reset).programByte (0 + 1)] =
      .ok (.ldji 0x1AB, []) := ⟨rfl, rfl⟩

theorem witness_BSideLastsUntilAccumulatorOp :
    ({ State.reset with ds := .bb } : State).ds = .bb ∧
      (∀ i ∈ [Instr.sta 1, Instr.nop, Instr.jltb], i.nextClass ≠ .accumulator) ∧
      (Instr.ldai 0).nextClass = .accumulator := by decide

/-- A state with something in both memories that meets the invariants, and a step from it. -/
def sample : State := program 0 [0x21] { State.reset with ram := [(0, 1), (255, 0xFFF)], carry := 0x1FFF, vgColour := 15 }

theorem sample_inv : sample.Inv ∧ sample.ColourInv := by
  unfold State.Inv State.ColourInv
  decide

theorem witness_InvariantHoldsAtReset : sample.Inv := sample_inv.1

theorem witness_StepKeepsInvariant : sample.Inv ∧ ∃ t, step sample = .next t := ⟨sample_inv.1, _, rfl⟩

theorem witness_StepKeepsColourCode : sample.ColourInv ∧ ∃ t, step sample = .next t := ⟨sample_inv.2, _, rfl⟩

theorem witness_StepNeverWritesHostState : ∃ t, step sample = .next t := ⟨_, rfl⟩

theorem witness_StepNeverReadsT : ∃ u, step { sample with t := 0x123 } = .next u := ⟨_, rfl⟩

/-- Each clause's premise is met by an instruction of its list. -/
theorem witness_RegistersHaveTheirWriters :
    (∃ t, exec (.ldp 3) sample = .next t ∧ t.p ≠ sample.p) ∧ (∃ t, exec (.ldji 1) sample = .next t ∧ t.j ≠ sample.j) ∧
      (∃ t, exec .vin { sample with a := 1 } = .next t ∧ t.fromX ≠ sample.fromX) ∧
      (∃ t, exec (.out 6) sample = .next t ∧ t.vgColour ≠ sample.vgColour) ∧
      (∃ t, exec (.llt .e) { sample with a := 0x100 } = .next t ∧ t.vgShiftLength ≠ sample.vgShiftLength) ∧
      (∃ t, exec (.lda 3) sample = .next t ∧ t.i ≠ sample.i) ∧
      ∃ t, exec (.sta 0) sample = .next t ∧ t.readRam 0 ≠ sample.readRam 0 :=
  ⟨⟨_, rfl, by decide⟩, ⟨_, rfl, by decide⟩, ⟨_, rfl, by decide⟩, ⟨_, rfl, by decide⟩, ⟨_, rfl, by decide⟩,
    ⟨_, rfl, by decide⟩, ⟨_, rfl, by decide⟩⟩

theorem witness_LaggedFlagsSurviveOtherClasses :
    (∀ i ∈ [Instr.sta 1, .nop, .out 6], i.nextClass ≠ .accumulator) ∧
      ∀ i ∈ [Instr.sta 1, .llt .e, .vdr], i.nextClass ≠ .accumulator ∨ ∃ v, i = .llt v := by
  refine ⟨by decide, fun i hi => ?_⟩
  simp only [List.mem_cons, List.not_mem_nil, or_false] at hi
  obtain rfl | rfl | rfl := hi
  · exact .inl (by decide)
  · exact .inr ⟨.e, rfl⟩
  · exact .inl (by decide)

theorem witness_OnlyRedirectorsReadConfiguration :
    ∃ u, exec (.ldai 1) sample = .next u ∧ Instr.ldai 1 ≠ .jppb ∧ ∀ n, Instr.ldai 1 ≠ .out n :=
  ⟨_, rfl, by decide, fun _ h => nomatch h⟩

theorem witness_AliasesBehaveAlike :
    1 ≤ (1 : BitVec 4).toNat ∧ (1 : BitVec 4).toNat ≤ 10 ∧ 1 ≤ (10 : BitVec 4).toNat ∧ (10 : BitVec 4).toNat ≤ 10 ∧
      ({ State.reset with ds := .b } : State).ds = .b ∧ ({ State.reset with ds := .bb } : State).ds = .bb := by decide

theorem witness_FirstInstructionAfterReset :
    (program 0 [0x5C] State.reset).programByte 0 = 0x5C ∧ (program 0 [0x5B] State.reset).programByte 0 = 0x5B ∧
      (program 0 [0x5D] State.reset).programByte 0 = 0x5D ∧ (program 0 [0x5E] State.reset).programByte 0 = 0x5E ∧
      (program 0 [0x59] State.reset).programByte 0 = 0x59 ∧
      (program 0 [0x59] State.reset).jumpPolarity = .jmiMode := by decide

theorem witness_SetStateLoadsSnapshot : ramWf sample.ram = true := by decide

/-- The ids at the edges of the register table. -/
theorem witness_SetRegisterWritesOneRegister :
    ramWf sample.ram = true ∧ registerWidth 0 = some 16 ∧ registerWidth 15 = some 2 ∧ registerWidth 16 = none ∧
      registerWidth 255 = none ∧ registerWidth 256 = some 12 ∧ registerWidth 511 = some 12 ∧
      registerWidth 512 = none := by decide

theorem witness_ConfigureAllOrNothing :
    JumpPolarity.ofName "JEI_MODE" = some .jeiMode ∧ AddressSpaceSize.ofName "MSIZE_32K" = some .msize32K ∧
      MonitorMode.ofName "COLOR" = some .color ∧ "NO_MODE" ∉ ["JMI_MODE", "JEI_MODE"] := by decide

theorem witness_EqualReadsAreEqualRam :
    ramWf sample.ram = true ∧ ∀ ea, ramRead sample.ram ea = ramRead [(0, 1), (255, 0xFFF)] ea := ⟨by decide, fun _ => rfl⟩

theorem witness_StoreThenLoadReturnsValue : ramWf sample.ram = true ∧ ∃ t, exec (.sta 0) sample = .next t :=
  ⟨by decide, _, rfl⟩

theorem witness_JdrAndNopChangeNothing :
    (program 0 [0x5A] State.reset).instrAtPc = .jdr ∧ (program 0 [0x5F] State.reset).instrAtPc = .nop := by decide

theorem witness_StoresWriteOneCell : ramWf sample.ram = true := by decide

theorem witness_LdjiAndLdiLoadControlRegisters :
    (0x40 : Byte).toNat / 16 = 4 ∧ (0x4F : Byte).toNat / 16 = 4 := by decide

theorem witness_CompareThenJump : sample.out.taken = false := by decide

theorem witness_MultiplyStepOnASide : State.reset.ds = .a ∧ ({ State.reset with ds := .aa } : State).ds = .aa := by decide

theorem witness_MultiplyStepOnBSide :
    ({ State.reset with ds := .b } : State).ds = .b ∧ ({ State.reset with ds := .bb } : State).ds = .bb := by decide

/-- No entry is a placeholder in a state with an empty placeholder set, on either side; in the reset state the E entries
and, on the A side, the double-length F entries are none. -/
theorem witness_SingleShiftsMoveSelectedAccumulator :
    (∀ op : Byte, (DispatchState.b, op) ∉ ({ State.reset with ds := .b, placeholders := [] } : State).placeholders) ∧
      (State.reset.ds, (0xEB : Byte)) ∉ State.reset.placeholders ∧
      (State.reset.ds, (0xEC : Byte)) ∉ State.reset.placeholders ∧
      (State.reset.ds, (0xED : Byte)) ∉ State.reset.placeholders := by
  refine ⟨fun op h => ?_, by decide, by decide, by decide⟩
  simp at h

theorem witness_DoubleShiftsMoveBothAccumulators :
    (State.reset.ds, (0xEE : Byte)) ∉ State.reset.placeholders ∧
      (State.reset.ds, (0xEF : Byte)) ∉ State.reset.placeholders ∧
      (State.reset.ds, (0xFE : Byte)) ∉ State.reset.placeholders ∧
      (State.reset.ds, (0xFF : Byte)) ∉ State.reset.placeholders ∧
      (DispatchState.bb, (0xEE : Byte)) ∉ State.reset.placeholders ∧
      (DispatchState.bb, (0xFE : Byte)) ∉ ({ State.reset with ds := .bb, placeholders := [] } : State).placeholders := by
  decide

theorem witness_PlaceholdersDoNothing :
    (State.reset.ds, (0xFB : Byte)) ∈ State.reset.placeholders ∧
      (DispatchState.b, (0xEF : Byte)) ∈ ({ State.reset with ds := .b } : State).placeholders ∧
      (DispatchState.b, (0xFE : Byte)) ∈ ({ State.reset with ds := .b } : State).placeholders ∧
      (State.reset.ds, (0xEB : Byte)) ∈ ({ State.reset with placeholders := [(.a, 0xEB)] } : State).placeholders := by
  decide

theorem witness_JmiTestsByDispatchState :
    State.reset.ds = .a ∧ ({ State.reset with ds := .b } : State).ds = .b ∧
      ({ State.reset with ds := .aa } : State).ds = .aa ∧ ({ State.reset with ds := .bb } : State).ds = .bb := by decide

theorem witness_OutChangesOnePortBit :
    (5 : BitVec 4).toNat % 8 ≠ 6 ∧ (7 : BitVec 4).toNat % 8 ≠ 6 ∧ (15 : BitVec 4).toNat % 8 ≠ 6 := by decide

theorem witness_OutSixSetsColour : (6 : BitVec 4).toNat % 8 = 6 ∧ (14 : BitVec 4).toNat % 8 = 6 := by decide

/-- Both clauses, at the edge between them. -/
theorem witness_LltOverflowsOnZeroOnly :
    (State.reset.a = 0 ∧ State.reset.b = 0) ∧
      ¬(({ State.reset with b := 1 } : State).a = 0 ∧ ({ State.reset with b := 1 } : State).b = 0) := by decide

/-- Every instruction costs 1, and nothing else is charged but a taken jump. -/
def flatCosts : CostModel := { cost := fun _ => 1, waitPenalty := 0 }

theorem flatCosts_charge (op : Byte) (o : StepOut) : 1 ≤ stepCharge flatCosts op o ∧ stepCharge flatCosts op o ≤ 3 := by
  unfold stepCharge flatCosts
  simp only [ite_self, Nat.zero_mul]
  constructor
  · omega
  · split <;> omega

/-- The premise of each clause: a spent budget, a run with a positive budget that returns, steps that all charge. -/
theorem witness_RunReturnsWithinBudget :
    (0 : Int) ≤ 0 ∧ ((1 : Int) ≤ 2 ∧ ∃ r, run flatCosts 3 2 (program 0 [0x5F, 0x5F] State.reset) = some r) ∧
      ∀ u v, step u = .next v → 1 ≤ stepCharge flatCosts u.opByteAtPc v.out :=
  ⟨by decide, ⟨by decide, _, rfl⟩, fun u v _ => (flatCosts_charge u.opByteAtPc v.out).1⟩

theorem witness_RunOvershootBound :
    (∀ u v, step u = .next v → stepCharge flatCosts u.opByteAtPc v.out ≤ 3) ∧ (1 : Int) ≤ 1 ∧
      (∃ r, runLoop flatCosts 1 1 sample = some r) ∧ (∃ r, run flatCosts 1 1 sample = some r) ∧
      ∀ t, step sample = .next t → 1 ≤ stepCharge flatCosts sample.opByteAtPc t.out :=
  ⟨fun u v _ => (flatCosts_charge u.opByteAtPc v.out).2, by decide, ⟨_, rfl⟩, ⟨_, rfl⟩,
    fun t _ => (flatCosts_charge sample.opByteAtPc t.out).1⟩

theorem witness_StepChargeBound : (∀ op, flatCosts.cost op ≤ 1) ∧ ∃ t, step sample = .next t :=
  ⟨fun _ => Nat.le_refl 1, _, rfl⟩

end Sys2Proof.Tests
end

section
/-! The dispatch (40_dispatch.md section 1, R130): what the decoder answers on a list that is long enough, and that
every instruction's meaning completes. -/

namespace Sys2Proof

/-- A one-byte form leaves every byte after its opcode (30_encoding.md R103). -/
theorem decode_of_opLength_eq_one (pol : JumpPolarity) {op : Byte} (rest : List Byte) (h : opLength op = 1) :
    decode pol (op :: rest) = .ok (decodeOp pol op 0, rest) :=
  if_pos h

/-- A two-byte form takes the byte after its opcode (30_encoding.md R90, R103). -/
theorem decode_of_opLength_ne_one (pol : JumpPolarity) {op : Byte} (operand : Byte) (rest : List Byte)
    (h : opLength op ≠ 1) :
    decode pol (op :: operand :: rest) = .ok (decodeOp pol op operand, rest) :=
  if_neg h

/-- Two bytes are long enough for every opcode, so neither `DecodeError` is raised (30_encoding.md R102). -/
theorem decode_two_bytes_eq_ok (pol : JumpPolarity) (op operand : Byte) :
    ∃ i rest, decode pol [op, operand] = .ok (i, rest) := by
  by_cases h : opLength op = 1
  · exact ⟨_, _, decode_of_opLength_eq_one pol [operand] h⟩
  · exact ⟨_, _, decode_of_opLength_ne_one pol operand [] h⟩

end Sys2Proof

namespace Sys2Proof.Machine

/-- Every arm of the dispatch is `.next` of its instruction's meaning, in every state: no instruction faults or is
refused (40_dispatch.md R120, R130; log 13). -/
theorem exec_completes (i : Instr) (s : State) : ∃ t, exec i s = .next t := by
  cases i <;> exact ⟨_, rfl⟩

/-- Settles O5: two bytes always decode, and whatever instruction they decode to completes. -/
theorem everyOpcodeHasAHandler : Obligations.EveryOpcodeHasAHandler := by
  unfold Obligations.EveryOpcodeHasAHandler
  intro op operand s
  obtain ⟨i, rest, hdecode⟩ := decode_two_bytes_eq_ok s.jumpPolarity op operand
  obtain ⟨t, hexec⟩ := exec_completes i s
  exact ⟨i, rest, t, hdecode, hexec⟩

end Sys2Proof.Machine
end

section
/-! The no-operations of the jump row (45_jump.md R232, R233), and what a step that only fetches is charged
(40_dispatch.md R121, R128). -/

namespace Sys2Proof.Machine

/-- Fetching an instruction's bytes adds operations to the outputs and raises no signal (40_dispatch.md R121). -/
theorem fetched_out (len : Nat) (s : State) : ∃ ops, (s.fetched len).out = { s.out with ops := ops } := by
  induction len generalizing s with
  | zero => exact ⟨s.out.ops, rfl⟩
  | succ len ih =>
    obtain ⟨ops, hops⟩ := ih s.fetchPc
    exact ⟨ops, hops⟩

/-- Interface operations alone are not charged for: outputs without a signal cost the opcode's base cost
(40_dispatch.md R128). -/
theorem stepCharge_of_ops_only (c : CostModel) (op : Byte) (ops : List IfaceOp) :
    stepCharge c op { ops := ops } = c.cost op := by
  simp [stepCharge]

/-- The state in which a step calls `exec` is charged the opcode's base cost: its outputs are the fetches. -/
theorem stepCharge_clearOut_fetched (c : CostModel) (op : Byte) (len : Nat) (s : State) :
    stepCharge c op (s.clearOut.fetched len).out = c.cost op := by
  obtain ⟨ops, hops⟩ := fetched_out len s.clearOut
  calc stepCharge c op (s.clearOut.fetched len).out
    _ = stepCharge c op { ops := ops } := congrArg (stepCharge c op) hops
    _ = c.cost op := stepCharge_of_ops_only c op ops

/-- JDR has no effect (45_jump.md R232). -/
@[simp] theorem exec_jdr (s : State) : exec .jdr s = .next s := rfl

/-- NOP has no effect (45_jump.md R233). -/
@[simp] theorem exec_nop (s : State) : exec .nop s = .next s := rfl

/-- A step at a JDR or a NOP is the fetch and nothing more. -/
theorem step_of_jdr_or_nop {s : State} (h : s.instrAtPc = .jdr ∨ s.instrAtPc = .nop) :
    step s = .next (s.clearOut.fetched s.lengthAtPc) := by
  unfold step
  rcases h with hjdr | hnop
  · rw [hjdr, exec_jdr]
  · rw [hnop, exec_nop]

/-- Settles O46: the meanings are the identity, so a step leaves the outputs of the fetch alone, which are charged the
listed cost. -/
theorem jdrAndNopChangeNothing : Obligations.JdrAndNopChangeNothing := by
  unfold Obligations.JdrAndNopChangeNothing
  refine ⟨fun s => ⟨exec_jdr s, exec_nop s⟩, fun c s h => ?_⟩
  exact ⟨_, step_of_jdr_or_nop h, stepCharge_clearOut_fetched c s.opByteAtPc s.lengthAtPc s⟩

end Sys2Proof.Machine
end

section
/-! The decoder and the encoder (30_encoding.md sections 1 and 2): an opcode byte is its two nibbles, each row of the
opcode tables is read and written on its own, and the round trips are put together from the rows. -/

namespace Sys2Proof

/-! ### An opcode byte and its nibbles -/

/-- Two words side by side, as numbers. -/
theorem toNat_append_eq_add {m n : Nat} (x : BitVec m) (y : BitVec n) :
    (x ++ y).toNat = x.toNat * 2 ^ n + y.toNat := by
  rw [BitVec.toNat_append, ← Nat.shiftLeft_add_eq_or_of_lt y.isLt, Nat.shiftLeft_eq]

@[simp] theorem highNibble_opByte (grp n : BitVec 4) : highNibble (opByte grp n) = grp :=
  BitVec.extractLsb'_append_eq_left

@[simp] theorem lowNibble_opByte (grp n : BitVec 4) : lowNibble (opByte grp n) = n :=
  BitVec.extractLsb'_append_eq_right

theorem lowNibble_toNat (x : Byte) : (lowNibble x).toNat = x.toNat % 16 := by
  simp [lowNibble]

theorem highNibble_toNat (x : Byte) : (highNibble x).toNat = x.toNat / 16 := by
  simp only [highNibble, BitVec.extractLsb'_toNat, Nat.shiftRight_eq_div_pow]
  omega

/-- Every byte is the opcode byte of its two nibbles (30_encoding.md R91). -/
@[simp] theorem opByte_nibbles (op : Byte) : opByte (highNibble op) (lowNibble op) = op := by
  apply BitVec.eq_of_toNat_eq
  rw [opByte, toNat_append_eq_add, highNibble_toNat, lowNibble_toNat]
  omega

/-- A statement about every opcode byte is one about every group and nibble (30_encoding.md R91). -/
theorem forall_opByte {P : Byte → Prop} (h : ∀ grp n, P (opByte grp n)) (op : Byte) : P op := by
  rw [← opByte_nibbles op]
  exact h _ _

/-- The sixteen groups, the ones with more than one instruction or byte first: the case split of the primary opcode
table (30_encoding.md R95). -/
theorem group_cases (g : BitVec 4) :
    (g = 0x2#4 ∨ g = 0x3#4 ∨ g = 0x4#4 ∨ g = 0x5#4 ∨ g = 0xE#4 ∨ g = 0xF#4) ∨ g = 0x0#4 ∨ g = 0x1#4 ∨ g = 0x6#4 ∨
      g = 0x7#4 ∨ g = 0x8#4 ∨ g = 0x9#4 ∨ g = 0xA#4 ∨ g = 0xB#4 ∨ g = 0xC#4 ∨ g = 0xD#4 := by
  revert g
  decide

/-! ### The primary opcode table (30_encoding.md R95), one equation per group -/

section

variable (pol : JumpPolarity) (n : BitVec 4) (operand : Byte)

@[simp] theorem decodeOp_ldai : decodeOp pol (opByte 0x0#4 n) operand = .ldai n := by simp [decodeOp]

@[simp] theorem decodeOp_inp : decodeOp pol (opByte 0x1#4 n) operand = .inp n := by simp [decodeOp]

@[simp] theorem decodeOp_ldji :
    decodeOp pol (opByte 0x4#4 n) operand = .ldji (ldjiTarget (opByte 0x4#4 n) operand) := by simp [decodeOp]

@[simp] theorem decodeOp_jump : decodeOp pol (opByte 0x5#4 n) operand = decodeJump pol n := by simp [decodeOp]

@[simp] theorem decodeOp_add : decodeOp pol (opByte 0x6#4 n) operand = .add n := by simp [decodeOp]

@[simp] theorem decodeOp_sub : decodeOp pol (opByte 0x7#4 n) operand = .sub n := by simp [decodeOp]

@[simp] theorem decodeOp_ldp : decodeOp pol (opByte 0x8#4 n) operand = .ldp n := by simp [decodeOp]

@[simp] theorem decodeOp_out : decodeOp pol (opByte 0x9#4 n) operand = .out n := by simp [decodeOp]

@[simp] theorem decodeOp_lda : decodeOp pol (opByte 0xA#4 n) operand = .lda n := by simp [decodeOp]

@[simp] theorem decodeOp_cmp : decodeOp pol (opByte 0xB#4 n) operand = .cmp n := by simp [decodeOp]

@[simp] theorem decodeOp_ldi : decodeOp pol (opByte 0xC#4 n) operand = .ldi n := by simp [decodeOp]

@[simp] theorem decodeOp_sta : decodeOp pol (opByte 0xD#4 n) operand = .sta n := by simp [decodeOp]

@[simp] theorem decodeOp_rowE : decodeOp pol (opByte 0xE#4 n) operand = decodeRowE n := by simp [decodeOp]

@[simp] theorem decodeOp_rowF : decodeOp pol (opByte 0xF#4 n) operand = decodeRowF n := by simp [decodeOp]

@[simp] theorem decodeOp_addx_or_addi :
    decodeOp pol (opByte 0x2#4 n) operand = if n = 0#4 then .addx operand else .addi n := by simp [decodeOp]

@[simp] theorem decodeOp_subx_or_subi :
    decodeOp pol (opByte 0x3#4 n) operand = if n = 0#4 then .subx operand else .subi n := by simp [decodeOp]

end

/-! ### The length of an instruction -/

/-- The two-byte opcodes, in group and nibble (30_encoding.md R103). -/
theorem opLength_opByte (grp n : BitVec 4) :
    opLength (opByte grp n) = if (grp = 2#4 ∨ grp = 3#4) ∧ n = 0#4 ∨ grp = 4#4 then 2 else 1 := by
  revert grp n
  decide

theorem opLength_eq_one_or_two (op : Byte) : opLength op = 1 ∨ opLength op = 2 := by
  unfold opLength
  split
  · exact Or.inr rfl
  · exact Or.inl rfl

theorem opLength_eq_two_iff (op : Byte) :
    opLength op = 2 ↔ op.toNat = 32 ∨ op.toNat = 48 ∨ op.toNat / 16 = 4 := by
  have hgroup : highNibble op = 4 ↔ op.toNat / 16 = 4 := by
    rw [← BitVec.toNat_inj, highNibble_toNat]
    rfl
  have hlength : opLength op = 2 ↔ op = 0x20 ∨ op = 0x30 ∨ highNibble op = 4 := by
    unfold opLength
    split <;> simp_all
  rw [hlength, hgroup, ← BitVec.toNat_inj, ← BitVec.toNat_inj]
  rfl

/-- Settles O4: `decode` looks at the length first, and a two-byte form that ends the list is its only rejection. -/
theorem lengthFromOpcode : Obligations.LengthFromOpcode := by
  unfold Obligations.LengthFromOpcode
  intro pol op rest
  refine ⟨opLength_eq_two_iff op, opLength_eq_one_or_two op, ?_⟩
  rcases opLength_eq_one_or_two op with hone | htwo
  · rw [decode_of_opLength_eq_one pol rest hone, hone]
    simp
  · cases rest with
    | nil => simp [decode, htwo]
    | cons operand rest =>
      rw [decode_of_opLength_ne_one pol operand rest (by omega)]
      simp

/-! ### Encoding what was decoded, row by row -/

/-- What the round trip asks of a decoded instruction: its bytes, and that it is one of the configuration. -/
def DecodesFrom (pol : JumpPolarity) (bytes : List Byte) (i : Instr) : Prop :=
  encode i = bytes ∧ i.wellFormed = true ∧ i.availableUnder pol = true

theorem decodeJump_from (pol : JumpPolarity) (n : BitVec 4) : DecodesFrom pol [opByte 0x5#4 n] (decodeJump pol n) := by
  unfold DecodesFrom
  revert n
  cases pol <;> decide

theorem decodeRowE_from (pol : JumpPolarity) (n : BitVec 4) : DecodesFrom pol [opByte 0xE#4 n] (decodeRowE n) := by
  unfold DecodesFrom
  revert n
  cases pol <;> decide

theorem decodeRowF_from (pol : JumpPolarity) (n : BitVec 4) : DecodesFrom pol [opByte 0xF#4 n] (decodeRowF n) := by
  unfold DecodesFrom
  revert n
  cases pol <;> decide

/-- LDJI takes its target apart into the nibbles it was put together from (30_encoding.md R93). -/
theorem encodeLdji_ldjiTarget (n : BitVec 4) (operand : Byte) :
    encodeLdji (ldjiTarget (opByte 0x4#4 n) operand) = [opByte 0x4#4 n, operand] := by
  have hlow : (ldjiTarget (opByte 0x4#4 n) operand).extractLsb' 0 4 = n := by
    rw [ldjiTarget, lowNibble_opByte, BitVec.extractLsb'_append_eq_right]
  have hmiddle : (ldjiTarget (opByte 0x4#4 n) operand).extractLsb' 4 4 = highNibble operand := by
    rw [ldjiTarget, BitVec.extractLsb'_append_eq_of_le (Nat.le_refl 4)]
    exact BitVec.extractLsb'_append_eq_right
  have hhigh : (ldjiTarget (opByte 0x4#4 n) operand).extractLsb' 8 4 = lowNibble operand := by
    rw [ldjiTarget, BitVec.extractLsb'_append_eq_of_le (by decide)]
    exact BitVec.extractLsb'_append_eq_left
  rw [encodeLdji, hlow, hmiddle, hhigh, opByte_nibbles]
  rfl

/-- Every opcode byte with the byte behind it: the groups of one instruction each, the two immediate groups by their
nibble, LDJI, and the three rows above. -/
theorem decodeOp_opByte_from (pol : JumpPolarity) (grp n : BitVec 4) (operand : Byte) :
    DecodesFrom pol (if opLength (opByte grp n) = 2 then [opByte grp n, operand] else [opByte grp n])
      (decodeOp pol (opByte grp n) operand) := by
  rw [opLength_opByte]
  rcases group_cases grp with
    (rfl | rfl | rfl | rfl | rfl | rfl) | rfl | rfl | rfl | rfl | rfl | rfl | rfl | rfl | rfl | rfl
  · by_cases hn : n = 0#4
    · rw [decodeOp_addx_or_addi, if_pos hn, hn]
      exact ⟨rfl, rfl, rfl⟩
    · simp [hn, DecodesFrom, encode, Instr.wellFormed, Instr.availableUnder]
  · by_cases hn : n = 0#4
    · rw [decodeOp_subx_or_subi, if_pos hn, hn]
      exact ⟨rfl, rfl, rfl⟩
    · simp [hn, DecodesFrom, encode, Instr.wellFormed, Instr.availableUnder]
  · simp [DecodesFrom, encode, encodeLdji_ldjiTarget, Instr.wellFormed, Instr.availableUnder]
  · simpa using decodeJump_from pol n
  · simpa using decodeRowE_from pol n
  · simpa using decodeRowF_from pol n
  all_goals simp [DecodesFrom, encode, Instr.wellFormed, Instr.availableUnder]

/-- Settles O3: every opcode byte is a group and a nibble, and each group reads and writes back. -/
theorem encodeOfDecode : Obligations.EncodeOfDecode := by
  unfold Obligations.EncodeOfDecode
  intro pol op operand
  induction op using forall_opByte with
  | h grp n => exact decodeOp_opByte_from pol grp n operand

/-! ### Decoding what was encoded -/

/-- LDJI puts its target together from the nibbles it was taken apart into (30_encoding.md R93). -/
theorem ldjiTarget_of_encodeLdji (x : Word) :
    ldjiTarget (opByte 0x4#4 (x.extractLsb' 0 4)) (opByte (x.extractLsb' 4 4) (x.extractLsb' 8 4)) = x := by
  have hupper : x.extractLsb' 8 4 ++ x.extractLsb' 4 4 = x.extractLsb' 4 8 :=
    BitVec.extractLsb'_append_extractLsb'_eq_extractLsb' rfl
  rw [ldjiTarget, highNibble_opByte, lowNibble_opByte, lowNibble_opByte, hupper]
  exact (BitVec.extractLsb'_append_extractLsb'_eq_extractLsb' rfl).trans BitVec.extractLsb'_eq_self

/-- An instruction that is encoded in the one byte `op`, to which it decodes, is read back with the rest left over. -/
theorem decode_one_byte {pol : JumpPolarity} {i : Instr} {op : Byte} (rest : List Byte) (hlen : opLength op = 1)
    (hdecode : decodeOp pol op 0 = i) : decode pol ([op] ++ rest) = .ok (i, rest) := by
  rw [List.singleton_append, decode_of_opLength_eq_one pol rest hlen, hdecode]

/-- Settles O2: instruction by instruction. The nibble forms go by the equation of their group; every other form but
LDJI has fixed opcode bytes, once its form or the polarity is known, and the decoder is evaluated at them. -/
theorem decodeOfEncode : Obligations.DecodeOfEncode := by
  unfold Obligations.DecodeOfEncode
  intro pol i rest hwf hav
  cases i with
  | ldai n | inp n | add n | sub n | ldp n | out n | lda n | cmp n | ldi n | sta n =>
    exact decode_one_byte rest (by simp [opLength_opByte]) (by simp)
  | addi n | subi n =>
    have hn : n ≠ 0#4 := by simpa [Instr.wellFormed] using hwf
    exact decode_one_byte rest (by simp [opLength_opByte, hn]) (by simp [hn])
  | ldji x =>
    have hlen : opLength (opByte 0x4#4 (x.extractLsb' 0 4)) ≠ 1 := by simp [opLength_opByte]
    exact (decode_of_opLength_ne_one pol _ rest hlen).trans
      (by rw [decodeOp_ldji, ldjiTarget_of_encodeLdji])
  | jmi | jmib | jei | jeib =>
    obtain rfl : pol = _ := of_decide_eq_true hav
    rfl
  | ldjr v | xlt v | mul v | llt v | wai v | star v | addr v | subr v | andr v | ldar v => cases v <;> rfl
  | _ => rfl

/-- Settles O1: the decoder is evaluated at the ten words. -/
theorem sampleWordsDecode : Obligations.SampleWordsDecode := by
  unfold Obligations.SampleWordsDecode
  decide

end Sys2Proof
end

section
/-! The data paths of Machine/Operands.lean in numbers, the spelling in which the statements speak of them. -/

namespace Sys2Proof.Machine

/-! ### The dispatch state and the selected accumulator -/

theorem idle_eq_next (d : DispatchState) : d.idle = NextClass.idle.next d := by cases d <;> rfl

theorem flip_eq_next (d : DispatchState) : d.flip = NextClass.flip.next d := by cases d <;> rfl

theorem onB_eq_true_iff (d : DispatchState) : d.onB = true ↔ d = .b ∨ d = .bb := by cases d <;> decide

theorem onB_eq_false_iff (d : DispatchState) : d.onB = false ↔ d = .a ∨ d = .aa := by cases d <;> decide

/-- `accIn` in the spelling of the meanings. -/
theorem accIn_eq_ite (d : DispatchState) (s : State) : accIn d s = if d.onB then s.b else s.a := by cases d <;> rfl

theorem accField_eq_ite (d : DispatchState) : accField d = if d.onB then .b else .a := by cases d <;> rfl

theorem acc_eq_accIn (s : State) : s.acc = accIn s.ds s := (accIn_eq_ite s.ds s).symm

theorem acc_toNat (s : State) : s.acc.toNat = accNat s := congrArg BitVec.toNat (acc_eq_accIn s)

/-! ### Bits -/

/-- Bit 0 is the parity. -/
theorem getLsbD_zero_eq_odd {w : Nat} (v : BitVec w) : v.getLsbD 0 = decide (v.toNat % 2 = 1) := by
  rw [BitVec.getLsbD, Nat.testBit_zero]

theorem acc_getLsbD_zero (s : State) : s.acc.getLsbD 0 = decide (accNat s % 2 = 1) := by
  rw [getLsbD_zero_eq_odd, acc_toNat]

/-- Bit 11 of a word says that it is in the upper half. -/
theorem getLsbD_eleven (v : Word) : v.getLsbD 11 = decide (2048 ≤ v.toNat) := by
  have hv : v.toNat < 4096 := v.isLt
  rw [BitVec.getLsbD, Nat.testBit_eq_decide_div_mod_eq]
  exact decide_eq_decide.2 (by omega)

/-- `sext12` in numbers. -/
theorem sext12_eq_signed12 (v : Word) : sext12 v = signed12 v := by
  have hv : v.toNat < 4096 := v.isLt
  rw [sext12, signed12, BitVec.toInt_eq_toNat_cond]
  split <;> split <;> omega

/-! ### Addresses -/

theorem directAddr_toNat (n : BitVec 4) (s : State) : (directAddr n s).toNat = 16 * s.p.toNat + n.toNat := by
  rw [directAddr, toNat_append_eq_add]
  omega

theorem highImmediate_toNat (n : BitVec 4) : (highImmediate n).toNat = n.toNat * 256 := by
  rw [highImmediate, toNat_append_eq_add]
  simp

theorem opAddr_toNat (s : State) : s.opAddr.toNat = (s.pc.toNat + 65535) % 65536 := by
  rw [State.opAddr, BitVec.toNat_sub, Nat.add_comm]
  rfl

/-- The page mask clears the low twelve bits. -/
theorem and_pageMask (x : Addr) : x &&& 0xF000#16 = (x >>> 12) <<< 12 := by
  ext k hk
  interval_cases k <;> simp

theorem opPage_toNat (s : State) : s.opPage.toNat = (s.pc.toNat + 65535) % 65536 / 4096 * 4096 := by
  rw [State.opPage, and_pageMask, BitVec.toNat_shiftLeft, BitVec.toNat_ushiftRight, opAddr_toNat,
    Nat.shiftRight_eq_div_pow, Nat.shiftLeft_eq]
  omega

theorem setWidth16_toNat (v : Word) : (v.setWidth 16).toNat = v.toNat := by
  have hv : v.toNat < 4096 := v.isLt
  rw [BitVec.toNat_setWidth]
  omega

/-- `page(PCop) | J` (45_jump.md R220). -/
theorem inPageTarget_toNat (s : State) : s.inPageTarget.toNat = pageJump s := by
  have hpage : s.opPage.toNat = ((s.pc.toNat + 65535) % 65536 / 4096) <<< 12 := by
    rw [opPage_toNat, Nat.shiftLeft_eq]
  rw [State.inPageTarget, BitVec.toNat_or, setWidth16_toNat, hpage, ← Nat.shiftLeft_add_eq_or_of_lt s.j.isLt,
    Nat.shiftLeft_eq]
  rfl

/-- XLT's address does not leave the program space (43_xlt_mul.md R190). -/
theorem xltAddr_toNat (s : State) :
    s.xltAddr.toNat = (s.pc.toNat + 65535) % 65536 / 4096 * 4096 + accNat s := by
  have hacc : accNat s < 4096 := (accIn s.ds s).isLt
  rw [State.xltAddr, BitVec.toNat_add, setWidth16_toNat, opPage_toNat, acc_toNat]
  omega

/-- The far-jump page, in numbers (45_jump.md R221). -/
theorem farPage_toNat (size : AddressSpaceSize) (p : BitVec 4) :
    (farPage size p).toNat =
      match size with
      | .msize4K => (p.toNat + 3) % 4
      | .msize8K => (p.toNat + 3) % 4
      | .msize16K => p.toNat % 4
      | .msize32K => p.toNat % 8 := by
  revert p
  cases size <;> decide

theorem farTarget_toNat (s : State) :
    s.farTarget.toNat = (farPage s.addressSpaceSize s.p).toNat * 4096 + s.j.toNat :=
  toNat_append_eq_add _ _

/-! ### One-bit shifts -/

theorem lsr12_toNat (v : Word) : (lsr12 v).toNat = v.toNat / 2 := by
  rw [lsr12, BitVec.toNat_ushiftRight, Nat.shiftRight_eq_div_pow, Nat.pow_one]

theorem lsl12_toNat (v : Word) : (lsl12 v).toNat = v.toNat * 2 % 4096 := by
  rw [lsl12, BitVec.toNat_shiftLeft, Nat.shiftLeft_eq, Nat.pow_one]

/-- The sign mask keeps bit 11. -/
theorem and_signMask_toNat (v : Word) : (v &&& 0x800#12).toNat = if 2048 ≤ v.toNat then 2048 else 0 := by
  have hmask : v &&& 0x800#12 = if v.getLsbD 11 then 0x800#12 else 0#12 := BitVec.and_twoPow v 11
  rw [hmask, getLsbD_eleven]
  split <;> simp_all

theorem asr12_toNat (v : Word) : (asr12 v).toNat = asrNat v.toNat := by
  have hhalf : v.toNat / 2 < 2 ^ 11 := by
    have hv : v.toNat < 4096 := v.isLt
    omega
  rw [asr12, BitVec.toNat_or, and_signMask_toNat, BitVec.toNat_ushiftRight, Nat.shiftRight_eq_div_pow, Nat.pow_one,
    asrNat]
  split
  · rw [Nat.or_comm, Nat.add_comm]
    exact (Nat.two_pow_add_eq_or_of_lt hhalf 1).symm
  · rw [Nat.or_zero, Nat.add_zero]

theorem pairLow_toNat (a b : Word) : (pairLow a b).toNat = b.toNat % 2 * 2048 + a.toNat / 2 := by
  have ha : a.toNat < 4096 := a.isLt
  rw [pairLow, toNat_append_eq_add, BitVec.extractLsb'_toNat, BitVec.extractLsb'_toNat, Nat.shiftRight_eq_div_pow,
    Nat.shiftRight_eq_div_pow]
  omega

/-! ### Sums and differences -/

/-- The 13-bit negation is the complement plus 1 (42_arith_logic.md R171). -/
theorem rawDifference_eq (old v : Word) : rawDifference old v = old.toNat + (4096 - v.toNat) := by
  have hv : v.toNat < 4096 := v.isLt
  have hnot : v ^^^ 0xFFF#12 = ~~~v := BitVec.xor_allOnes
  rw [rawDifference, hnot, BitVec.toNat_not]
  omega

/-- Writing a raw value that is below 65536 to the carry scratch loses nothing. -/
theorem carry_toNat_of_lt {raw : Nat} (h : raw < 65536) : (BitVec.ofNat 16 raw).toNat = raw := by
  rw [BitVec.toNat_ofNat, Nat.mod_eq_of_lt h]

end Sys2Proof.Machine
end

section
/-! The frame: what each update of Machine/Ops.lean, each template of Machine/Flags.lean and then each instruction may
change. `Instr.writes` lists the fields of an instruction; the statements about what is left unchanged cite
`exec_changesOnly`. -/

namespace Sys2Proof.Machine

/-! ### The algebra of frames -/

theorem Field.Same.refl (f : Field) (s : State) : f.Same s s := by
  cases f <;> simp [Field.Same]

theorem Field.Same.trans {f : Field} {s t u : State} (hst : f.Same s t) (htu : f.Same t u) : f.Same s u := by
  cases f <;> simp_all [Field.Same]

namespace ChangesOnly

theorem refl (changed : List Field) (s : State) : ChangesOnly changed s s := fun f _ => Field.Same.refl f s

theorem mono {changed changed' : List Field} {s t : State} (h : ChangesOnly changed s t)
    (hsub : ∀ f ∈ changed, f ∈ changed') : ChangesOnly changed' s t :=
  fun f hf => h f fun hmem => hf (hsub f hmem)

/-- Two updates one after the other change what either of them changes. -/
theorem trans {changed changed' : List Field} {s t u : State} (hst : ChangesOnly changed s t)
    (htu : ChangesOnly changed' t u) : ChangesOnly (changed ++ changed') s u := by
  intro f hf
  rw [List.mem_append, not_or] at hf
  exact (hst f hf.1).trans (htu f hf.2)

/-- The frame of an operation, after one that prepares the state for it. -/
theorem after {fields extra : List Field} {s r t : State} (h : ChangesOnly fields r t) (hprep : ChangesOnly extra s r) :
    ChangesOnly (fields ++ extra) s t :=
  (hprep.trans h).mono (by grind)

end ChangesOnly

/-! ### One rule per update -/

section

variable (s : State)

theorem setDs_changesOnly (d : DispatchState) : ChangesOnly [.ds] s (s.setDs d) := by
  intro f hf
  cases f <;> simp_all [Field.Same]

theorem setAcc_changesOnly (v : Word) : ChangesOnly [accField s.ds] s (s.setAcc v) := by
  intro f hf
  rw [accField_eq_ite] at hf
  cases f <;> simp_all [Field.Same]

theorem setAB_changesOnly (x y : Word) : ChangesOnly [.a, .b] s (s.setAB x y) := by
  intro f hf
  cases f <;> simp_all [Field.Same]

theorem setI_changesOnly (ea : Byte) : ChangesOnly [.i] s (s.setI ea) := by
  intro f hf
  cases f <;> simp_all [Field.Same]

theorem setJ_changesOnly (x : Word) : ChangesOnly [.j] s (s.setJ x) := by
  intro f hf
  cases f <;> simp_all [Field.Same]

theorem setP_changesOnly (n : BitVec 4) : ChangesOnly [.p] s (s.setP n) := by
  intro f hf
  cases f <;> simp_all [Field.Same]

theorem setFrom_changesOnly (x y : Word) : ChangesOnly [.fromX, .fromY] s (s.setFrom x y) := by
  intro f hf
  cases f <;> simp_all [Field.Same]

theorem setColour_changesOnly (c : Byte) : ChangesOnly [.vgColour] s (s.setColour c) := by
  intro f hf
  cases f <;> simp_all [Field.Same]

theorem setShiftLength_changesOnly (n : Byte) (steps : Nat) :
    ChangesOnly [.vgShiftLength, .lltSteps] s (s.setShiftLength n steps) := by
  intro f hf
  cases f <;> simp_all [Field.Same]

theorem setFlags_changesOnly (old operand : Word) (a0 : Bool) (raw : Nat) :
    ChangesOnly laggedFlags s (s.setFlags old operand a0 raw) := by
  intro f hf
  cases f <;> simp_all [Field.Same, laggedFlags]

theorem advance_changesOnly : ChangesOnly [.pc] s s.advance := by
  intro f hf
  cases f <;> simp_all [Field.Same]

theorem writeRam_changesOnly (ea : Byte) (v : Word) : ChangesOnly [.ram] s (s.writeRam ea v) := by
  intro f hf
  cases f <;> simp_all [Field.Same]

theorem perform_changesOnly (op : IfaceOp) : ChangesOnly [.ops] s (s.perform op) := by
  intro f hf
  cases f <;> simp_all [Field.Same]

theorem portRead_changesOnly (port : Port) : ChangesOnly [.ops, .portIn, .portReads] s (s.portRead port) := by
  intro f hf
  cases f <;> simp_all [Field.Same]

theorem signalCounterReset_changesOnly (cond : Bool) :
    ChangesOnly [.counterReset] s (s.signalCounterReset cond) := by
  intro f hf
  cases f <;> simp_all [Field.Same]

theorem signalWait_changesOnly : ChangesOnly [.waitRequest] s s.signalWait := by
  intro f hf
  cases f <;> simp_all [Field.Same]

theorem branch_changesOnly (cond : Bool) (target : Addr) : ChangesOnly [.pc, .taken] s (s.branch cond target) := by
  intro f hf
  cases f <;> simp_all [Field.Same]

/-! ### The templates -/

/-- What an operation with an accumulator result and flags may write, on either side (41_load_store.md R150,
42_arith_logic.md R170, 43_xlt_mul.md R191, 44_shift.md R201). -/
def resultFields : List Field := .a :: .b :: .ds :: laggedFlags

/-- What a port read leaves behind (20_memory.md R69, logs 3 and 4). -/
def portFields : List Field := [.ops, .portIn, .portReads]

/-- What a jump writes (45_jump.md R220). -/
def jumpFields : List Field := [.pc, .taken, .ds]

theorem toAA_changesOnly : ChangesOnly [.ds] s s.toAA := setDs_changesOnly s _

theorem toIdle_changesOnly : ChangesOnly [.ds] s s.toIdle := setDs_changesOnly s _

theorem toFlip_changesOnly : ChangesOnly [.ds] s s.toFlip := setDs_changesOnly s _

theorem setAcc_changesOnly_ab (v : Word) : ChangesOnly [.a, .b] s (s.setAcc v) :=
  (setAcc_changesOnly s v).mono (by grind [accField_eq_ite])

theorem aluResult_changesOnly (v : Word) (raw : Nat) : ChangesOnly (resultFields) s (s.aluResult v raw) :=
  (((setFlags_changesOnly s _ _ _ _).trans (setAcc_changesOnly_ab _ _)).trans (toAA_changesOnly _)).mono
    (by grind [resultFields])

theorem loadAcc_changesOnly (v : Word) : ChangesOnly (resultFields) s (s.loadAcc v) :=
  (((setFlags_changesOnly s _ _ _ _).trans (setAcc_changesOnly_ab _ _)).trans (toAA_changesOnly _)).mono
    (by grind [resultFields])

theorem compareOp_changesOnly (v : Word) : ChangesOnly [.cmpOld, .cmpNew, .carry, .ds] s (s.compareOp v) := by
  intro f hf
  rw [compareOp_eq]
  cases f <;> simp_all [Field.Same] <;> intros <;> rfl

theorem direct_changesOnly (n : BitVec 4) : ChangesOnly [.i] s (s.direct n) := setI_changesOnly s _

/-- A shift entry writes what its data movement writes, and the flags (44_shift.md R201, R213). -/
theorem shiftEntry_changesOnly {moved : List Field} (op : Byte) {move : State → State}
    (hmove : ChangesOnly moved (s.shiftFlags op) (move (s.shiftFlags op))) :
    ChangesOnly (moved ++ .ds :: laggedFlags) s (s.shiftEntry op move) := by
  unfold State.shiftEntry
  split
  · exact (toAA_changesOnly s).mono (by grind)
  · exact (((setFlags_changesOnly s _ _ _ _).trans hmove).trans (toAA_changesOnly _)).mono (by grind)

theorem shiftEntry_single_changesOnly (op : Byte) (f : Word → Word) :
    ChangesOnly (resultFields) s (s.shiftEntry op (State.shiftSingle f)) :=
  shiftEntry_changesOnly s op (setAcc_changesOnly_ab _ _)

theorem shiftEntry_pairRight_changesOnly (op : Byte) :
    ChangesOnly resultFields s (s.shiftEntry op State.shiftPairRight) := by
  refine shiftEntry_changesOnly s op (moved := [.a, .b]) ?_
  unfold State.shiftPairRight
  split <;> exact setAB_changesOnly _ _ _

theorem shiftEntry_bothLeft_changesOnly (op : Byte) :
    ChangesOnly resultFields s (s.shiftEntry op State.shiftBothLeft) :=
  shiftEntry_changesOnly s op (setAB_changesOnly _ _ _)

theorem mulStepA_changesOnly (m : Word) : ChangesOnly resultFields s (s.mulStepA m) := by
  unfold State.mulStepA
  split <;>
    exact (((setFlags_changesOnly s _ _ _ _).trans (setAB_changesOnly _ _ _)).trans (toAA_changesOnly _)).mono
      (by grind [resultFields])

theorem mulStepB_changesOnly (m : Word) : ChangesOnly (.b :: .ds :: laggedFlags) s (s.mulStepB m) := by
  intro f hf
  rw [mulStepB_eq]
  cases f <;> simp_all [Field.Same, laggedFlags] <;> intros <;> rfl

theorem outPortBit_changesOnly (k : Nat) : ChangesOnly (.counterReset :: portFields) s (s.outPortBit k) :=
  (((portRead_changesOnly s _).trans (perform_changesOnly _ _)).trans (signalCounterReset_changesOnly _ _)).mono
    (by grind [portFields])

theorem readAxis_changesOnly : ChangesOnly portFields s s.readAxis :=
  ((portRead_changesOnly s _).trans (portRead_changesOnly _ _)).mono (by grind [portFields])

/-- A jump with the next dispatch state `d`, after the reads of its condition. -/
theorem jump_changesOnly {read : List Field} {r : State} (hread : ChangesOnly read s r) (cond : Bool) (target : Addr)
    (d : DispatchState) : ChangesOnly (jumpFields ++ read) s ((r.branch cond target).setDs d) :=
  ((branch_changesOnly r _ _).trans (setDs_changesOnly _ d)).after hread

end

/-! ### The instructions -/

end Sys2Proof.Machine

namespace Sys2Proof

/-- The fields that an instruction may change, whatever the dispatch state. -/
def Instr.writes : Instr → List Machine.Field
  | .ldai _ | .ldar _ | .addi _ | .addx _ | .addr _ | .subi _ | .subx _ | .subr _ | .andr _ | .lsre | .lsle | .asre
  | .lsrf | .lslf | .asrf | .mul _ | .asrde | .asrdf | .lslde | .lsldf => Machine.resultFields
  | .lda _ | .add _ | .sub _ => Machine.resultFields ++ [.i]
  | .inp _ => Machine.resultFields ++ Machine.portFields
  | .xlt _ => Machine.resultFields ++ [.pc, .ops]
  | .cmp _ => [.i, .cmpOld, .cmpNew, .carry, .ds]
  | .llt _ => [.a, .b, .vgShiftLength, .lltSteps, .ds]
  | .ldji _ | .ldjr _ => [.j, .ds]
  | .ldp _ => [.p, .ds]
  | .ldi _ => [.i, .ds]
  | .sta _ => [.i, .ram, .ds]
  | .star _ => [.ram, .ds]
  | .out _ => .vgColour :: .counterReset :: .ds :: Machine.portFields
  | .vin => [.fromX, .fromY, .ds]
  | .vdr => [.ops, .ds]
  | .wai _ => [.waitRequest, .ds]
  | .jmp | .jmi | .jlt | .jeq | .jnc | .ja0 | .jppb | .jmib | .jltb | .jeqb | .jncb | .ja0b => Machine.jumpFields
  | .jei | .jeib => Machine.jumpFields ++ Machine.portFields
  | .jdrb | .nopb => [.ds]
  | .jdr | .nop => []

end Sys2Proof

namespace Sys2Proof.Machine

/-- What `exec` answers, it answers alone. -/
theorem Completes.of_exec {i : Instr} {s t : State} {P : State → Prop} (h : Completes i s P)
    (hexec : exec i s = .next t) : P t := by
  obtain ⟨u, hu, hP⟩ := h
  rw [hu] at hexec
  cases hexec
  exact hP

/-- Every instruction keeps to its fields. -/
theorem completes_changesOnly (i : Instr) (s : State) : Completes i s (ChangesOnly (i.writes) s) := by
  cases i with
  | ldai n | ldar v => exact ⟨_, rfl, loadAcc_changesOnly s _⟩
  | addi n | addx imm | addr v | subi n | subx imm | subr v | andr v => exact ⟨_, rfl, aluResult_changesOnly s _ _⟩
  | lsre | lsle | asre | lsrf | lslf | asrf => exact ⟨_, rfl, shiftEntry_single_changesOnly s _ _⟩
  | lda n => exact ⟨_, rfl, (loadAcc_changesOnly (s.direct n) _).after (direct_changesOnly s n)⟩
  | add n | sub n => exact ⟨_, rfl, (aluResult_changesOnly (s.direct n) _ _).after (direct_changesOnly s n)⟩
  | inp n => exact ⟨_, rfl, (loadAcc_changesOnly (s.portRead _) _).after (portRead_changesOnly s _)⟩
  | xlt v =>
    exact ⟨_, rfl, (loadAcc_changesOnly (s.fetchAt s.xltAddr).advance _).after
      ((advance_changesOnly _).after (perform_changesOnly s _))⟩
  | cmp n => exact ⟨_, rfl, (direct_changesOnly s n).trans (compareOp_changesOnly _ _)⟩
  | mul v =>
    refine ⟨_, rfl, ?_⟩
    split
    · exact (mulStepB_changesOnly s _).mono (by grind [Instr.writes, resultFields])
    · exact mulStepA_changesOnly s _
  | asrde | asrdf => exact ⟨_, rfl, shiftEntry_pairRight_changesOnly s _⟩
  | lslde | lsldf => exact ⟨_, rfl, shiftEntry_bothLeft_changesOnly s _⟩
  | llt v =>
    exact ⟨_, rfl, ((setAB_changesOnly s _ _).trans (setShiftLength_changesOnly _ _ _)).trans (toAA_changesOnly _)⟩
  | ldji x | ldjr v => exact ⟨_, rfl, (setJ_changesOnly s _).trans (toIdle_changesOnly _)⟩
  | ldp n => exact ⟨_, rfl, (setP_changesOnly s _).trans (toIdle_changesOnly _)⟩
  | ldi n => exact ⟨_, rfl, (setI_changesOnly s _).trans (toIdle_changesOnly _)⟩
  | sta n =>
    exact ⟨_, rfl, ((direct_changesOnly s n).trans (writeRam_changesOnly _ _ _)).trans (toIdle_changesOnly _)⟩
  | star v => exact ⟨_, rfl, (writeRam_changesOnly s _ _).trans (toIdle_changesOnly _)⟩
  | out n =>
    refine ⟨_, rfl, ?_⟩
    split
    · exact ((setColour_changesOnly s _).trans (toIdle_changesOnly _)).mono (by grind [Instr.writes])
    · exact ((outPortBit_changesOnly s _).trans (toIdle_changesOnly _)).mono (by grind [Instr.writes])
  | vin => exact ⟨_, rfl, (setFrom_changesOnly s _ _).trans (toIdle_changesOnly _)⟩
  | vdr => exact ⟨_, rfl, (perform_changesOnly s _).trans (toIdle_changesOnly _)⟩
  | wai v => exact ⟨_, rfl, (signalWait_changesOnly s).trans (toIdle_changesOnly _)⟩
  | jmp | jmi | jlt | jeq | jnc | ja0 | jppb | jmib | jltb | jeqb | jncb | ja0b =>
    exact ⟨_, rfl, jump_changesOnly s (ChangesOnly.refl [] s) _ _ _⟩
  | jei | jeib => exact ⟨_, rfl, jump_changesOnly s (readAxis_changesOnly s) _ _ _⟩
  | jdrb | nopb => exact ⟨_, rfl, toFlip_changesOnly s⟩
  | jdr | nop => exact ⟨_, rfl, ChangesOnly.refl [] s⟩

theorem exec_changesOnly {i : Instr} {s t : State} (h : exec i s = .next t) : ChangesOnly (i.writes) s t :=
  (completes_changesOnly i s).of_exec h

end Sys2Proof.Machine
end

section
/-! What the loads, the stores, the arithmetic, XLT, MUL and the shifts leave in the registers (41_load_store.md to
44_shift.md). The values are read off the templates; what is unchanged is `exec_changesOnly`. -/

namespace Sys2Proof.Machine

/-! ### Operations with an accumulator result -/

section

variable (s : State)

/-- The rule of every operation that writes the flags and then the selected accumulator. -/
theorem accumulatorStep_setFlags_setAcc (operand result : Word) {raw : Nat} (hraw : raw < 65536) :
    AccumulatorStep [] result.toNat operand.toNat raw s
      (((s.setFlags s.acc operand (s.acc.getLsbD 0) raw).setAcc result).toAA) := by
  refine ⟨?_, rfl, acc_eq_accIn s, acc_getLsbD_zero s, carry_toNat_of_lt hraw, rfl, ?_⟩
  · rw [accIn_eq_ite]
    cases h : s.ds.onB <;> simp [h]
  · exact (((setFlags_changesOnly s _ _ _ _).trans (setAcc_changesOnly _ _)).trans (toAA_changesOnly _)).mono
      (by simp [laggedFlags])

/-- The step seen from the state before a preparation that leaves the accumulators and the dispatch state alone. -/
theorem AccumulatorStep.after {extra : List Field} {result operand raw : Nat} {s r t : State}
    (h : AccumulatorStep [] result operand raw r t) (hprep : ChangesOnly extra s r) (ha : r.a = s.a) (hb : r.b = s.b)
    (hds : r.ds = s.ds) : AccumulatorStep extra result operand raw s t := by
  have hacc : accIn r.ds r = accIn s.ds s := by simp only [accIn, ha, hb, hds]
  obtain ⟨hresult, hoperand, hold, ha0, hraw, haa, hframe⟩ := h
  rw [accNat, hacc] at ha0
  rw [hds] at hresult hframe
  exact ⟨hresult, hoperand, hold.trans hacc, ha0, hraw, haa, by simpa using hframe.after hprep⟩

theorem accNat_lt (s : State) : accNat s < 4096 := (accIn s.ds s).isLt

/-- `LOAD(v)` (41_load_store.md R150). -/
theorem accumulatorStep_loadAcc (v : Word) :
    AccumulatorStep [] v.toNat v.toNat (accNat s) s (s.loadAcc v) := by
  have hacc := accNat_lt s
  have h : AccumulatorStep [] v.toNat v.toNat s.acc.toNat s (s.loadAcc v) :=
    accumulatorStep_setFlags_setAcc s v v (by rw [acc_toNat]; omega)
  rwa [acc_toNat] at h

/-- The add family (42_arith_logic.md R170, R171). -/
theorem accumulatorStep_aluResult (v : Word) {raw : Nat} (hraw : raw < 65536) :
    AccumulatorStep [] (raw % 4096) v.toNat raw s (s.aluResult v raw) := by
  have h := accumulatorStep_setFlags_setAcc s v (BitVec.ofNat 12 raw) hraw
  rwa [BitVec.toNat_ofNat] at h

/-- `ADDOP(v)` (42_arith_logic.md R170). -/
theorem accumulatorStep_addOp (v : Word) :
    AccumulatorStep [] ((accNat s + v.toNat) % 4096) v.toNat (accNat s + v.toNat) s (s.addOp v) := by
  have hacc := accNat_lt s
  have hv : v.toNat < 4096 := v.isLt
  rw [State.addOp, rawSum, acc_toNat]
  exact accumulatorStep_aluResult s v (by omega)

/-- `SUBOP(v)` (42_arith_logic.md R171). -/
theorem accumulatorStep_subOp (v : Word) :
    AccumulatorStep [] ((accNat s + (4096 - v.toNat)) % 4096) v.toNat (accNat s + (4096 - v.toNat)) s (s.subOp v) := by
  have hacc := accNat_lt s
  rw [State.subOp, rawDifference_eq, acc_toNat]
  exact accumulatorStep_aluResult s v (by omega)

/-- After a subtraction `carry[12] = 1` says that there was no borrow (42_arith_logic.md R171). -/
theorem AccumulatorStep.carry_iff {extra : List Field} {s t : State} {result operand : Nat} (v : Word)
    (h : AccumulatorStep extra result operand (accNat s + (4096 - v.toNat)) s t) :
    4096 ≤ t.carry.toNat ↔ v.toNat ≤ accNat s := by
  obtain ⟨-, -, -, -, hraw, -, -⟩ := h
  have hv : v.toNat < 4096 := v.isLt
  omega

/-- The AND (42_arith_logic.md R182): its result is below 4096 already. -/
theorem accumulatorStep_andOp (v : Word) :
    AccumulatorStep [] (accNat s &&& v.toNat) v.toNat (accNat s &&& v.toNat) s (s.andOp v) := by
  have hlt : accNat s &&& v.toNat < 4096 := Nat.lt_of_le_of_lt Nat.and_le_left (accNat_lt s)
  have h := accumulatorStep_aluResult s v (raw := accNat s &&& v.toNat) (by omega)
  rw [Nat.mod_eq_of_lt hlt] at h
  rwa [State.andOp, BitVec.toNat_and, acc_toNat]

/-- An operation on the direct operand `(P, n)`, after I received its address (20_memory.md R62). -/
theorem AccumulatorStep.direct {result operand raw : Nat} {s t : State} {n : BitVec 4}
    (h : AccumulatorStep [] result operand raw (s.direct n) t) : AccumulatorStep [.i] result operand raw s t :=
  h.after (direct_changesOnly s n) rfl rfl rfl

end

/-- Settles O26: each is `LOAD(v)`, LDA after I received its address. -/
theorem loadsFillSelectedAccumulator : Obligations.LoadsFillSelectedAccumulator := by
  unfold Obligations.LoadsFillSelectedAccumulator
  intro n v s
  refine ⟨⟨_, rfl, ?_⟩, ⟨_, rfl, directAddr_toNat n s, ?_⟩, ⟨_, rfl, accumulatorStep_loadAcc s s.cellAtI⟩⟩
  · simpa only [highImmediate_toNat] using accumulatorStep_loadAcc s (highImmediate n)
  · exact (accumulatorStep_loadAcc (s.direct n) (s.direct n).cellAtI).direct

/-! ### Stores and control registers -/

/-- Settles O27: a write is read back at its own cell, and no other cell is touched. -/
theorem storesWriteOneCell : Obligations.StoresWriteOneCell := by
  unfold Obligations.StoresWriteOneCell
  intro n v s hram
  refine ⟨directAddr_toNat n s, ⟨_, rfl, rfl, ?_, ?_, idle_eq_next s.ds, exec_changesOnly (i := .sta n) rfl⟩,
    ⟨_, rfl, ?_, ?_, idle_eq_next s.ds, exec_changesOnly (i := .star v) rfl⟩⟩
  · exact (ramRead_ramWrite_same hram _ _).trans (acc_eq_accIn s)
  · exact fun ea hea => ramRead_ramWrite_other s.ram _ hea
  · exact (ramRead_ramWrite_same hram _ _).trans (acc_eq_accIn s)
  · exact fun ea hea => ramRead_ramWrite_other s.ram _ hea

theorem opByte_group8 (n : BitVec 4) : BitVec.ofNat 8 (0x80 + n.toNat) = opByte 0x8#4 n := by
  revert n
  decide

/-- Settles O28: each writes one register and goes to the idle state. -/
theorem ldjrAndLdpLoadControlRegisters : Obligations.LdjrAndLdpLoadControlRegisters := by
  unfold Obligations.LdjrAndLdpLoadControlRegisters
  refine ⟨fun pol operand n => ⟨rfl, rfl, ?_⟩, fun n v s => ⟨?_, ?_⟩⟩
  · rw [opByte_group8, decodeOp_ldp]
  · exact ⟨_, rfl, rfl, idle_eq_next s.ds, exec_changesOnly (i := .ldjr v) rfl⟩
  · exact ⟨_, rfl, rfl, idle_eq_next s.ds, exec_changesOnly (i := .ldp n) rfl⟩

theorem ldjiTarget_toNat (op operand : Byte) :
    (ldjiTarget op operand).toNat = op.toNat % 16 + operand.toNat / 16 * 16 + operand.toNat % 16 * 256 := by
  rw [ldjiTarget, toNat_append_eq_add, toNat_append_eq_add, lowNibble_toNat, highNibble_toNat, lowNibble_toNat]
  omega

/-- Settles O29: the target is put together from three nibbles. -/
theorem ldjiAndLdiLoadControlRegisters : Obligations.LdjiAndLdiLoadControlRegisters := by
  unfold Obligations.LdjiAndLdiLoadControlRegisters
  refine ⟨fun pol op operand hop => ⟨ldjiTarget op operand, ?_, ldjiTarget_toNat op operand⟩, fun x n s => ⟨?_, ?_⟩⟩
  · have hgroup : highNibble op = 0x4#4 := BitVec.eq_of_toNat_eq ((highNibble_toNat op).trans hop)
    rw [← opByte_nibbles op, hgroup, decodeOp_ldji]
  · exact ⟨_, rfl, rfl, idle_eq_next s.ds, exec_changesOnly (i := .ldji x) rfl⟩
  · refine ⟨_, rfl, ?_, idle_eq_next s.ds, exec_changesOnly (i := .ldi n) rfl⟩
    have haddr : BitVec.ofNat 8 (16 * s.p.toNat + n.toNat) = directAddr n s := by
      rw [← directAddr_toNat, BitVec.ofNat_toNat, BitVec.setWidth_eq]
    rw [haddr]
    exact BitVec.toNat_setWidth 8 (s.readRam (directAddr n s))

/-! ### Add, subtract, compare, AND -/

/-- A nibble as an operand, unshifted. -/
theorem setWidth12_nibble_toNat (n : BitVec 4) : (n.setWidth 12).toNat = n.toNat :=
  BitVec.toNat_setWidth_of_le (by decide)

/-- A byte as an operand. -/
theorem setWidth12_byte_toNat (x : Byte) : (x.setWidth 12).toNat = x.toNat :=
  BitVec.toNat_setWidth_of_le (by decide)

/-- Settles O30: each is `ADDOP(v)` on its operand, ADD after I received its address. -/
theorem addsWriteSumAndFlags : Obligations.AddsWriteSumAndFlags := by
  unfold Obligations.AddsWriteSumAndFlags
  intro n imm v s
  refine ⟨⟨_, rfl, ?_⟩, ⟨_, rfl, ?_⟩, ⟨_, rfl, directAddr_toNat n s, ?_⟩,
    ⟨_, rfl, accumulatorStep_addOp s s.cellAtI⟩⟩
  · simpa only [setWidth12_nibble_toNat] using accumulatorStep_addOp s (n.setWidth 12)
  · simpa only [setWidth12_byte_toNat] using accumulatorStep_addOp s (imm.setWidth 12)
  · exact (accumulatorStep_addOp (s.direct n) (s.direct n).cellAtI).direct

/-- Settles O31: each is `SUBOP(v)` on its operand, and the borrow is read off the raw difference. -/
theorem subtractsWriteDifferenceAndFlags : Obligations.SubtractsWriteDifferenceAndFlags := by
  unfold Obligations.SubtractsWriteDifferenceAndFlags
  intro n imm v s
  have hsub := (accumulatorStep_subOp (s.direct n) (s.direct n).cellAtI).direct
  have hsubr := accumulatorStep_subOp s s.cellAtI
  refine ⟨⟨_, rfl, ?_⟩, ⟨_, rfl, ?_⟩, ⟨_, rfl, directAddr_toNat n s, hsub.carry_iff _, hsub⟩,
    ⟨_, rfl, hsubr.carry_iff _, hsubr⟩⟩
  · simpa only [setWidth12_nibble_toNat] using accumulatorStep_subOp s (n.setWidth 12)
  · simpa only [setWidth12_byte_toNat] using accumulatorStep_subOp s (imm.setWidth 12)

/-- The carry that CMP leaves (42_arith_logic.md R181). -/
theorem compareOp_carry_toNat (s : State) (v : Word) :
    (s.compareOp v).carry.toNat = accNat s + (4096 - v.toNat) := by
  have hacc := accNat_lt s
  have h : (s.compareOp v).carry.toNat = rawDifference s.acc v :=
    carry_toNat_of_lt (by rw [rawDifference_eq, acc_toNat]; omega)
  rw [h, rawDifference_eq, acc_toNat]

/-- Settles O32: the compare after I received its address. -/
theorem compareWritesFlagsOnly : Obligations.CompareWritesFlagsOnly := by
  unfold Obligations.CompareWritesFlagsOnly
  intro n s
  exact ⟨_, rfl, directAddr_toNat n s, acc_eq_accIn s, rfl, compareOp_carry_toNat (s.direct n) _, rfl,
    exec_changesOnly (i := .cmp n) rfl⟩

/-- Settles O34: the add family with the AND as its raw result. -/
theorem andWritesResultAndFlags : Obligations.AndWritesResultAndFlags := by
  unfold Obligations.AndWritesResultAndFlags
  exact fun v s => ⟨_, rfl, accumulatorStep_andOp s s.cellAtI⟩

/-! ### Translate and multiply -/

theorem advance_pc_toNat (s : State) : s.advance.pc.toNat = (s.pc.toNat + 1) % 65536 :=
  BitVec.toNat_add s.pc 1

/-- Settles O35: XLT is a load after the fetch of its byte and one more PC advance. -/
theorem xltTranslatesThroughProgram : Obligations.XltTranslatesThroughProgram := by
  unfold Obligations.XltTranslatesThroughProgram
  intro v s
  have hload := (accumulatorStep_loadAcc (s.fetchAt s.xltAddr).advance ((s.programByte s.xltAddr).setWidth 12)).after
    ((advance_changesOnly _).after (perform_changesOnly s _)) rfl rfl rfl
  rw [setWidth12_byte_toNat] at hload
  exact ⟨s.xltAddr, xltAddr_toNat s, _, rfl, advance_pc_toNat s, rfl, hload⟩

/-- A sum of two words fits the carry scratch. -/
theorem word_add_lt (x y : Word) : x.toNat + y.toNat < 65536 := by
  have hx : x.toNat < 4096 := x.isLt
  have hy : y.toNat < 4096 := y.isLt
  omega

/-- The sum of the multiply step, in the carry scratch. -/
theorem mulCarry_toNat (b m : Word) :
    (BitVec.ofNat 16 ((asr12 b).toNat + m.toNat)).toNat = asrNat b.toNat + m.toNat := by
  rw [carry_toNat_of_lt (word_add_lt _ _), asr12_toNat]

/-- The sum of the multiply step, in B. -/
theorem mulSum_toNat (b m : Word) :
    (BitVec.ofNat 12 ((asr12 b).toNat + m.toNat)).toNat = (asrNat b.toNat + m.toNat) % 4096 := by
  rw [BitVec.toNat_ofNat, asr12_toNat]

/-- MUL on the A side (43_xlt_mul.md R191). -/
theorem exec_mul_of_a {s : State} (v : Form) (hside : s.ds = .a ∨ s.ds = .aa) :
    exec (.mul v) s = .next (s.mulStepA s.cellAtI) := by
  simp [exec, execMul, (onB_eq_false_iff s.ds).2 hside]

/-- MUL on the B side (43_xlt_mul.md R192). -/
theorem exec_mul_of_b {s : State} (v : Form) (hside : s.ds = .b ∨ s.ds = .bb) :
    exec (.mul v) s = .next (s.mulStepB s.cellAtI) := by
  simp [exec, execMul, (onB_eq_true_iff s.ds).2 hside]

/-- Settles O36: by the parity of A. -/
theorem multiplyStepOnASide : Obligations.MultiplyStepOnASide := by
  unfold Obligations.MultiplyStepOnASide
  intro v s hside
  have hframe := mulStepA_changesOnly s s.cellAtI
  have hodd := getLsbD_zero_eq_odd s.a
  refine ⟨_, exec_mul_of_a v hside, ?_⟩
  rw [mulStepA_eq, hodd] at hframe ⊢
  refine ⟨pairLow_toNat s.a s.b, rfl, rfl, rfl, ?_, hframe⟩
  by_cases h : s.a.toNat % 2 = 1
  · simp only [h, decide_true, if_true]
    exact ⟨trivial, mulCarry_toNat s.b s.cellAtI, mulSum_toNat s.b s.cellAtI⟩
  · simp only [h, decide_false, if_false, Bool.false_eq_true]
    exact ⟨trivial, carry_toNat_of_lt (word_add_lt _ _), asr12_toNat s.b⟩

/-- Settles O37: by the parity of A, which decides about B alone. -/
theorem multiplyStepOnBSide : Obligations.MultiplyStepOnBSide := by
  unfold Obligations.MultiplyStepOnBSide
  intro v s hside
  have hframe := mulStepB_changesOnly s s.cellAtI
  have hodd := getLsbD_zero_eq_odd s.a
  refine ⟨_, exec_mul_of_b v hside, ?_⟩
  rw [mulStepB_eq, hodd] at hframe ⊢
  refine ⟨rfl, rfl, rfl, mulCarry_toNat s.b s.cellAtI, rfl, ?_, hframe⟩
  by_cases h : s.a.toNat % 2 = 1
  · simp only [h, decide_true, if_true]
    exact mulSum_toNat s.b s.cellAtI
  · simp only [h, decide_false, if_false, Bool.false_eq_true]
    exact asr12_toNat s.b

/-! ### Shifts -/

/-- A table entry that is no placeholder sets the flags and moves the data (44_shift.md R201). -/
theorem shiftEntry_of_not_mem {s : State} {op : Byte} (move : State → State) (h : (s.ds, op) ∉ s.placeholders) :
    s.shiftEntry op move = (move (s.shiftFlags op)).toAA := by
  simp [State.shiftEntry, State.isPlaceholder, h]

/-- A placeholder entry changes nothing but the dispatch state (44_shift.md R213). -/
theorem shiftEntry_of_mem {s : State} {op : Byte} (move : State → State) (h : (s.ds, op) ∈ s.placeholders) :
    s.shiftEntry op move = { s with ds := .aa } := by
  simp [State.shiftEntry, State.isPlaceholder, h, State.setDs]

/-- An instruction that is a single-length shift entry, with its constant and its shift in numbers. -/
theorem shiftsSelected_of_entry {i : Instr} {op : Byte} {k : Nat} {f : Word → Word} {g : Nat → Nat} {s : State}
    (hi : exec i s = .next (s.shiftEntry op (State.shiftSingle f))) (hk : (magic op).toNat = k)
    (hf : ∀ x, (f x).toNat = g x.toNat) : ShiftsSelected i op k g s := by
  intro h
  have hstep : AccumulatorStep [] (f s.acc).toNat (magic op).toNat ((magic op).toNat + s.acc.toNat) s
      (s.shiftEntry op (State.shiftSingle f)) := by
    rw [shiftEntry_of_not_mem _ h]
    exact accumulatorStep_setFlags_setAcc s (magic op) (f s.acc) (word_add_lt _ _)
  rw [hf, hk, acc_toNat] at hstep
  exact ⟨_, hi, hstep⟩

/-- Settles O38: six entries of the shift table, one rule. -/
theorem singleShiftsMoveSelectedAccumulator : Obligations.SingleShiftsMoveSelectedAccumulator := by
  unfold Obligations.SingleShiftsMoveSelectedAccumulator
  exact fun s =>
    ⟨shiftsSelected_of_entry rfl (by decide) lsr12_toNat, shiftsSelected_of_entry rfl (by decide) lsl12_toNat,
      shiftsSelected_of_entry rfl (by decide) asr12_toNat, shiftsSelected_of_entry rfl (by decide) lsr12_toNat,
      shiftsSelected_of_entry rfl (by decide) lsl12_toNat, shiftsSelected_of_entry rfl (by decide) asr12_toNat⟩

/-- An instruction that is a shift entry on both accumulators, with its constant and what it leaves in them. -/
theorem shiftsBoth_of_entry {i : Instr} {op : Byte} {k : Nat} {move : State → State} {x y : Word} {s : State}
    (hi : exec i s = .next (s.shiftEntry op move)) (hk : (magic op).toNat = k)
    (hmove : move (s.shiftFlags op) = (s.shiftFlags op).setAB x y) : ShiftsBoth i op k x.toNat y.toNat s := by
  intro h
  rw [shiftEntry_of_not_mem move h, hmove] at hi
  have hcarry : ((s.shiftFlags op).setAB x y).toAA.carry.toNat = (magic op).toNat + s.acc.toNat :=
    carry_toNat_of_lt (word_add_lt _ _)
  rw [hk, acc_toNat] at hcarry
  exact ⟨_, hi, rfl, rfl, acc_eq_accIn s, hk, acc_getLsbD_zero s, hcarry, rfl,
    (((setFlags_changesOnly s _ _ _ _).trans (setAB_changesOnly _ _ _)).trans (toAA_changesOnly _)).mono
      (by grind)⟩

/-- The double right shift on the A side moves the pair (44_shift.md R205). -/
theorem shiftPairRight_of_a {s : State} (hside : s.ds = .a ∨ s.ds = .aa) :
    s.shiftPairRight = s.setAB (pairLow s.a s.b) (asr12 s.b) := by
  simp [State.shiftPairRight, (onB_eq_false_iff s.ds).2 hside]

/-- The double right shift on the B side moves B alone (44_shift.md R205). -/
theorem shiftPairRight_of_b {s : State} (hside : s.ds = .b ∨ s.ds = .bb) :
    s.shiftPairRight = s.setAB s.a (asr12 s.b) := by
  simp [State.shiftPairRight, (onB_eq_true_iff s.ds).2 hside]

/-- Settles O39: the data movement of each entry, by the side. -/
theorem doubleShiftsMoveBothAccumulators : Obligations.DoubleShiftsMoveBothAccumulators := by
  unfold Obligations.DoubleShiftsMoveBothAccumulators
  intro s
  simp only [← pairLow_toNat, ← asr12_toNat, ← lsl12_toNat]
  refine ⟨fun hside => ⟨?_, ?_⟩, fun hside => ⟨?_, ?_⟩, ?_, ?_⟩
  · exact shiftsBoth_of_entry rfl (by decide) (shiftPairRight_of_a (s := s.shiftFlags _) hside)
  · exact shiftsBoth_of_entry rfl (by decide) (shiftPairRight_of_a (s := s.shiftFlags _) hside)
  · exact shiftsBoth_of_entry rfl (by decide) (shiftPairRight_of_b (s := s.shiftFlags _) hside)
  · exact shiftsBoth_of_entry rfl (by decide) (shiftPairRight_of_b (s := s.shiftFlags _) hside)
  · exact shiftsBoth_of_entry (move := State.shiftBothLeft) rfl (by decide) rfl
  · exact shiftsBoth_of_entry (move := State.shiftBothLeft) rfl (by decide) rfl

/-- An instruction that is a shift entry does nothing where the entry is a placeholder. -/
theorem doesNothing_of_entry {i : Instr} {op : Byte} {move : State → State} {s : State}
    (hi : exec i s = .next (s.shiftEntry op move)) : DoesNothingAsPlaceholder i op s := by
  intro h
  rw [hi, shiftEntry_of_mem move h]

/-- The spec's default set, entry by entry (44_shift.md R212). -/
theorem mem_defaultPlaceholders_iff (d : DispatchState) (op : Byte) :
    (d, op) ∈ defaultPlaceholders ↔
      op.toNat ∈ [0xFB, 0xFC, 0xFD] ∨ (d = .b ∨ d = .bb) ∧ op.toNat ∈ [0xEF, 0xFE, 0xFF] := by
  simp only [defaultPlaceholders, List.mem_cons, List.not_mem_nil, Prod.mk.injEq, ← BitVec.toNat_inj, or_false]
  cases d <;> simp [or_assoc]

/-- Settles O40: ten entries of the shift table, one rule, and the default set entry by entry. -/
theorem placeholdersDoNothing : Obligations.PlaceholdersDoNothing := by
  unfold Obligations.PlaceholdersDoNothing
  refine ⟨fun s => ?_, rfl, mem_defaultPlaceholders_iff⟩
  exact ⟨doesNothing_of_entry rfl, doesNothing_of_entry rfl, doesNothing_of_entry rfl, doesNothing_of_entry rfl,
    doesNothing_of_entry rfl, doesNothing_of_entry rfl, doesNothing_of_entry rfl, doesNothing_of_entry rfl,
    doesNothing_of_entry rfl, doesNothing_of_entry rfl⟩

end Sys2Proof.Machine
end

section
/-! The jumps (45_jump.md): one rule for an in-page jump on a condition, and each condition in numbers. -/

namespace Sys2Proof.Machine

/-! ### The in-page jump -/

/-- An instruction that branches to `J` in its own page on `cond`, after reads that leave PC, the `taken` output and
the dispatch state alone. -/
theorem jumpsWhen_of_branch {i : Instr} {cond : Bool} {extra : List Field} {s r : State} {P : State → Prop}
    (hi : exec i s = .next (r.branch cond s.inPageTarget).toIdle) (hread : ChangesOnly extra s r) (hpc : r.pc = s.pc)
    (htaken : r.out.taken = s.out.taken) (hds : r.ds = s.ds) (hP : P (r.branch cond s.inPageTarget).toIdle) :
    JumpsWhen i cond extra s P := by
  refine ⟨_, hi, ?_, ?_, ?_, hP, ?_⟩
  · rw [← inPageTarget_toNat, ← hpc]
    exact apply_ite BitVec.toNat _ _ _
  · rw [← htaken]
    rfl
  · rw [← idle_eq_next, ← hds]
    rfl
  · exact jump_changesOnly s hread _ _ _

/-- A jump on a condition that needs no port read. -/
theorem jumpsWhen_of_flags {i : Instr} {cond : Bool} {s : State}
    (hi : exec i s = .next (s.branch cond s.inPageTarget).toIdle) : JumpsWhen i cond [] s fun _ => True :=
  jumpsWhen_of_branch hi (ChangesOnly.refl [] s) rfl rfl rfl trivial

/-- The `taken` output of an in-page jump is its condition, when no jump was taken before it. -/
theorem JumpsWhen.completes_taken {i : Instr} {cond : Bool} {extra : List Field} {s : State} {P : State → Prop}
    (h : JumpsWhen i cond extra s P) (hclear : s.out.taken = false) : Completes i s fun u => u.out.taken = cond := by
  obtain ⟨u, hexec, -, htaken, -⟩ := h
  exact ⟨u, hexec, by simpa [hclear] using htaken⟩

/-- Settles O41: the in-page jump on the condition `true`. -/
theorem jmpStaysInPage : Obligations.JmpStaysInPage := by
  unfold Obligations.JmpStaysInPage
  exact ⟨fun pol operand => rfl, fun s => jumpsWhen_of_flags rfl⟩

/-! ### The conditions -/

theorem equal_eq (s : State) : s.equal = decide (s.cmpNew.toNat = s.cmpOld.toNat) :=
  decide_eq_decide.2 BitVec.toNat_inj.symm

/-- `carry[15:12] = 0` in numbers (45_jump.md R231). -/
theorem noCarry_eq (s : State) : s.noCarry = decide (s.carry.toNat / 4096 = 0) := by
  have hcarry : s.carry.toNat < 65536 := s.carry.isLt
  have htop : (s.carry.extractLsb' 12 4).toNat = s.carry.toNat / 4096 := by
    rw [BitVec.extractLsb'_toNat, Nat.shiftRight_eq_div_pow]
    omega
  rw [State.noCarry, ← htop]
  exact decide_eq_decide.2 BitVec.toNat_inj.symm

theorem jeq_jumpsWhen (s : State) :
    JumpsWhen .jeq (decide (s.cmpNew.toNat = s.cmpOld.toNat)) [] s fun _ => True :=
  equal_eq s ▸ jumpsWhen_of_flags rfl

theorem jlt_jumpsWhen (s : State) :
    JumpsWhen .jlt (decide (s.cmpNew.toNat < s.cmpOld.toNat)) [] s fun _ => True :=
  jumpsWhen_of_flags rfl

theorem jnc_jumpsWhen (s : State) : JumpsWhen .jnc (decide (s.carry.toNat / 4096 = 0)) [] s fun _ => True :=
  noCarry_eq s ▸ jumpsWhen_of_flags rfl

/-- Settles O42: the in-page jump on two conditions. -/
theorem jeqAndJa0Conditions : Obligations.JeqAndJa0Conditions := by
  unfold Obligations.JeqAndJa0Conditions
  exact ⟨fun pol operand => ⟨rfl, rfl⟩, fun s => ⟨jeq_jumpsWhen s, jumpsWhen_of_flags rfl⟩⟩

/-- Settles O43: the in-page jump on two conditions. -/
theorem jltAndJncConditions : Obligations.JltAndJncConditions := by
  unfold Obligations.JltAndJncConditions
  exact fun s => ⟨jlt_jumpsWhen s, jnc_jumpsWhen s⟩

/-- JMI on the value that the dispatch state selects (45_jump.md R226). -/
theorem jmi_jumpsWhen {s : State} {v : Word} (hv : s.minusValue = v) :
    JumpsWhen .jmi (decide (2048 ≤ v.toNat)) [] s fun _ => True := by
  rw [← hv, ← getLsbD_eleven]
  exact jumpsWhen_of_flags rfl

/-- Settles O44: the value tested, by the dispatch state. -/
theorem jmiTestsByDispatchState : Obligations.JmiTestsByDispatchState := by
  unfold Obligations.JmiTestsByDispatchState
  intro s
  refine ⟨fun h => ?_, fun h => ?_, fun h => ?_⟩
  · exact jmi_jumpsWhen (by simp [State.minusValue, State.acc, DispatchState.prevAcc, DispatchState.onB, h])
  · exact jmi_jumpsWhen (by simp [State.minusValue, State.acc, DispatchState.prevAcc, DispatchState.onB, h])
  · exact jmi_jumpsWhen (by rcases h with h | h <;> simp [State.minusValue, DispatchState.prevAcc, h])

/-- Settles O33: the pair and the carry that CMP leaves, under the three conditions. -/
theorem compareThenJump : Obligations.CompareThenJump := by
  unfold Obligations.CompareThenJump
  intro n s hclear
  obtain ⟨t, hexec, -, hold, hnew, hcarry, -, hframe⟩ := compareWritesFlagsOnly n s
  have hsame : t.out.taken = s.out.taken := hframe .taken (by decide)
  have htaken : t.out.taken = false := hsame.trans hclear
  have hcell : (s.readRam t.i).toNat < 4096 := (s.readRam t.i).isLt
  have hacc := accNat_lt s
  have hjeq := (jeq_jumpsWhen t).completes_taken htaken
  have hjlt := (jlt_jumpsWhen t).completes_taken htaken
  have hjnc := (jnc_jumpsWhen t).completes_taken htaken
  rw [hold, hnew] at hjeq hjlt
  have hborrow : t.carry.toNat / 4096 = 0 ↔ accNat s < (s.readRam t.i).toNat := by omega
  simp only [hborrow] at hjnc
  exact ⟨t, hexec, hjeq, hjlt, hjnc⟩

/-! ### JEI -/

theorem axisPort_eq_jeiAxis (s : State) : axisPort s.portAnswer = jeiAxis s := by
  rw [axisPort, jeiAxis, BitVec.getLsbD, Nat.testBit_eq_decide_div_mod_eq]
  simp

theorem nearJoystick_eq_jeiNear (s : State) : s.nearJoystick = jeiNear s := by
  rw [State.nearJoystick, near, jeiNear, sext12_eq_signed12]
  rfl

theorem readAxis_ds (s : State) : s.readAxis.ds = s.ds := by rw [readAxis_eq]

theorem readAxis_out_ops (s : State) :
    s.readAxis.out.ops =
      s.out.ops ++ [.portRead .outputs s.portAnswer, .portRead (jeiAxis s) (secondAnswer s)] := by
  rw [State.readAxis, portRead_out_ops, portRead_out_ops, ← axisPort_eq_jeiAxis, List.append_assoc]
  rfl

theorem readAxis_portIn (s : State) : s.readAxis.portIn = s.portIn.drop 2 := by
  rw [readAxis_eq, ← List.drop_one, ← List.drop_one, List.drop_drop]

theorem readAxis_portReads (s : State) : s.readAxis.portReads = s.portReads + 2 := by rw [readAxis_eq]

/-- Settles O45: the in-page jump after two reads. -/
theorem jeiTestsJoystick : Obligations.JeiTestsJoystick := by
  unfold Obligations.JeiTestsJoystick
  intro s
  have hpc : s.readAxis.pc = s.pc := by rw [readAxis_eq]
  have htaken : s.readAxis.out.taken = s.out.taken := by rw [readAxis_eq]
  rw [← nearJoystick_eq_jeiNear]
  refine jumpsWhen_of_branch (r := s.readAxis) rfl (readAxis_changesOnly s) hpc htaken (readAxis_ds s) ?_
  simp only [JeiReads, toIdle_eq, setDs_out, setDs_portIn, setDs_portReads, branch_out_ops, branch_portIn,
    branch_portReads]
  exact ⟨readAxis_out_ops s, readAxis_portIn s, readAxis_portReads s⟩

/-! ### The B-flip column and the far jump -/

/-- A plain instruction of the idle class and its variant, which leave `r` but for the dispatch state. -/
theorem flipVariantOf_of_idle {plain variant : Instr} {s r : State} (hplain : exec plain s = .next r.toIdle)
    (hvariant : exec variant s = .next r.toFlip) (hds : r.ds = s.ds) : FlipVariantOf plain variant s := by
  refine ⟨_, hplain, hvariant.trans ?_⟩
  rw [← hds, ← flip_eq_next]
  rfl

/-- A no-operation and its variant. -/
theorem flipVariantOf_of_keep {plain variant : Instr} {s : State} (hplain : exec plain s = .next s)
    (hvariant : exec variant s = .next s.toFlip) : FlipVariantOf plain variant s := by
  refine ⟨_, hplain, hvariant.trans ?_⟩
  rw [← flip_eq_next]
  rfl

/-- Settles O47: all but JDR and NOP are of the idle class. -/
theorem flipVariantsDecideAlike : Obligations.FlipVariantsDecideAlike := by
  unfold Obligations.FlipVariantsDecideAlike
  intro s
  have hjei : FlipVariantOf .jei .jeib s :=
    flipVariantOf_of_idle (r := s.readAxis.branch s.nearJoystick s.inPageTarget) rfl rfl (readAxis_ds s)
  exact ⟨flipVariantOf_of_idle rfl rfl rfl, hjei, flipVariantOf_of_keep rfl rfl, flipVariantOf_of_idle rfl rfl rfl,
    flipVariantOf_of_idle rfl rfl rfl, flipVariantOf_of_idle rfl rfl rfl, flipVariantOf_of_idle rfl rfl rfl,
    flipVariantOf_of_keep rfl rfl⟩

/-- Settles O48: the page by the address space size, then J below it. -/
theorem farJumpFormulas : Obligations.FarJumpFormulas := by
  unfold Obligations.FarJumpFormulas
  intro s
  refine ⟨_, rfl, ?_, Bool.or_true _, flip_eq_next s.ds, exec_changesOnly (i := .jppb) rfl⟩
  exact (farTarget_toNat s).trans (congrArg (fun page => page * 4096 + s.j.toNat) (farPage_toNat _ _))

end Sys2Proof.Machine
end

section
/-! Port input and output, the vector unit, the long line test and the wait (46_io_vector.md). -/

namespace Sys2Proof.Machine

/-! ### INP -/

/-- One bit of a port word, in numbers (46_io_vector.md R250). -/
theorem bitWord_toNat (w : PortWord) (k : Nat) : (bitWord w k).toNat = w.toNat / 2 ^ k % 2 := by
  rw [bitWord, BitVec.getLsbD, Nat.testBit_eq_decide_div_mod_eq]
  rcases Nat.mod_two_eq_zero_or_one (w.toNat / 2 ^ k) with h | h <;> simp [h]

theorem bitIndex3_eq (n : BitVec 4) : bitIndex3 n = n.toNat % 8 := by
  simp [bitIndex3]

/-- Settles O49: INP is a load after one port read; port and bit are those of its side. -/
theorem inpLoadsOnePortBit : Obligations.InpLoadsOnePortBit := by
  unfold Obligations.InpLoadsOnePortBit
  intro n s
  have hload := (accumulatorStep_loadAcc (s.portRead (inpPort s.ds)) (bitWord s.portAnswer (inpIndex s.ds n))).after
    (portRead_changesOnly s _) rfl rfl rfl
  rw [bitWord_toNat] at hload
  refine ⟨inpPort s.ds, inpIndex s.ds n, ?_, _, rfl, rfl, rfl, rfl, hload⟩
  split
  · rename_i hside
    simp [inpPort, inpIndex, (onB_eq_true_iff s.ds).2 hside, bitIndex3_eq]
  · rename_i hside
    have honB : s.ds.onB = false := by rwa [← onB_eq_true_iff, Bool.not_eq_true] at hside
    simp [inpPort, inpIndex, honB]

/-! ### OUT -/

/-- The low byte mask, bit by bit. -/
theorem getLsbD_lowByteMask {bit : Nat} (hbit : bit < 16) : (0x00FF#16).getLsbD bit = decide (bit < 8) := by
  interval_cases bit <;> decide

/-- The bit that OUT selects, as a mask. -/
theorem getLsbD_bitMask (k : Nat) {bit : Nat} (hbit : bit < 16) : (1#16 <<< k).getLsbD bit = decide (bit = k) := by
  rw [← BitVec.twoPow_eq, BitVec.getLsbD_twoPow]
  by_cases h : bit = k
  · simp [← h, hbit]
  · simp [h, Ne.symm h]

/-- The word OUT writes, bit by bit (46_io_vector.md R251). -/
theorem getLsbD_outWord (w : PortWord) (k : Nat) (odd : Bool) {bit : Nat} (hbit : bit < 16) :
    (outWord w k odd).getLsbD bit = if 8 ≤ bit then false else if bit = k then !odd else w.getLsbD bit := by
  have hbits : (outWord w k odd).getLsbD bit =
      ((if odd then w.getLsbD bit && !decide (bit = k) else w.getLsbD bit || decide (bit = k)) &&
        decide (bit < 8)) := by
    rw [outWord, BitVec.getLsbD_and, getLsbD_lowByteMask hbit]
    cases odd
    · rw [if_neg Bool.false_ne_true, BitVec.getLsbD_or, getLsbD_bitMask k hbit, if_neg Bool.false_ne_true]
    · rw [if_pos rfl, BitVec.getLsbD_and, BitVec.getLsbD_not, getLsbD_bitMask k hbit, decide_eq_true hbit,
        Bool.true_and, if_pos rfl]
  rw [hbits]
  by_cases hhigh : 8 ≤ bit
  · simp [hhigh]
  · have hlow : bit < 8 := Nat.not_le.1 hhigh
    rw [if_neg hhigh, decide_eq_true hlow, Bool.and_true]
    by_cases hk : bit = k <;> cases odd <;> simp [hk]

/-- OUT with a bit index other than 6 (46_io_vector.md R251). -/
theorem exec_out_portBit {n : BitVec 4} (s : State) (h : n.toNat % 8 ≠ 6) :
    exec (.out n) s = .next (s.outPortBit (n.toNat % 8)).toIdle := by
  simp only [exec, execOut, bitIndex3_eq, if_neg h]

/-- OUT with bit index 6 (46_io_vector.md R253). -/
theorem exec_out_colour {n : BitVec 4} (s : State) (h : n.toNat % 8 = 6) :
    exec (.out n) s = .next (s.setColour s.colourResult).toIdle := by
  simp only [exec, execOut, bitIndex3_eq, if_pos h]

/-- Settles O50: the port-bit path, its word read bit by bit. -/
theorem outChangesOnePortBit : Obligations.OutChangesOnePortBit := by
  unfold Obligations.OutChangesOnePortBit
  intro n s hindex
  have hframe : ChangesOnly [.ops, .portIn, .portReads, .counterReset, .ds] s (s.outPortBit (n.toNat % 8)).toIdle :=
    ((outPortBit_changesOnly s _).trans (toIdle_changesOnly _)).mono (by grind [portFields])
  refine ⟨_, exec_out_portBit s hindex, ?_⟩
  rw [outPortBit_eq] at hframe ⊢
  refine ⟨outWord s.portAnswer (n.toNat % 8) (s.acc.getLsbD 0), fun bit hbit => ?_, List.append_assoc _ _ _, rfl, rfl,
    rfl, idle_eq_next s.ds, hframe⟩
  rw [getLsbD_outWord _ _ _ hbit, acc_getLsbD_zero, ← decide_not]
  simp only [Nat.mod_two_ne_one]

/-- The low nibble of a word, in numbers. -/
theorem lowNibble_word_toNat (v : Word) : (v.extractLsb' 0 4).toNat = v.toNat % 16 := by
  simp

/-- The colour of OUT 6 in numbers, by monitor mode (46_io_vector.md R253). -/
theorem colourResult_toNat (s : State) :
    s.colourResult.toNat =
      match s.monitorMode with
      | .bilevel => if accNat s % 2 = 1 then 15 else 7
      | .level16 =>
        if accNat s % 2 = 1 then s.vgColour.toNat
        else if s.fromX.toNat % 16 = 0 then 1 else s.fromX.toNat % 16
      | .level64 => ((s.colour64.lookup (accIn s.ds s, s.fromX, s.fromY, s.vgColour)).getD s.vgColour).toNat
      | .color => ((s.colourGame.lookup (accIn s.ds s, s.fromX, s.fromY, s.vgColour)).getD s.vgColour).toNat := by
  unfold State.colourResult
  cases s.monitorMode with
  | bilevel =>
    simp only [acc_getLsbD_zero, decide_eq_true_eq]
    exact apply_ite BitVec.toNat _ _ _
  | level16 =>
    have hnibble : ((s.fromX.extractLsb' 0 4).setWidth 8).toNat = s.fromX.toNat % 16 :=
      (BitVec.toNat_setWidth_of_le (by decide)).trans (lowNibble_word_toNat s.fromX)
    simp only [acc_getLsbD_zero, decide_eq_true_eq, apply_ite BitVec.toNat, ← BitVec.toNat_inj, hnibble,
      lowNibble_word_toNat]
    rfl
  | level64 => rw [acc_eq_accIn]; rfl
  | color => rw [acc_eq_accIn]; rfl

/-- Settles O51: the colour path, by monitor mode. -/
theorem outSixSetsColour : Obligations.OutSixSetsColour := by
  unfold Obligations.OutSixSetsColour
  intro n s hindex
  exact ⟨_, exec_out_colour s hindex, colourResult_toNat s, idle_eq_next s.ds,
    (setColour_changesOnly s _).trans (toIdle_changesOnly _)⟩

/-! ### The vector unit -/

/-- Settles O52: the two accumulators are read whatever the dispatch state. -/
theorem vinLatchesOrigin : Obligations.VinLatchesOrigin := by
  unfold Obligations.VinLatchesOrigin
  exact fun s => ⟨_, rfl, rfl, rfl, idle_eq_next s.ds, exec_changesOnly (i := .vin) rfl⟩

/-- The end coordinate of a draw, in numbers (46_io_vector.md R255). -/
theorem interpolate_eq (origin target : Word) (shift : Nat) :
    interpolate origin target shift = (signed12 target - signed12 origin) / 2 ^ shift + signed12 origin := by
  rw [interpolate, floorShr, Int.shiftRight_eq_div_pow, sext12_eq_signed12, sext12_eq_signed12]
  simp

theorem drawRequest_eq (s : State) :
    s.drawRequest =
      .emitVector (signed12 s.fromX) (signed12 s.fromY)
        ((signed12 s.a - signed12 s.fromX) / 2 ^ s.vgShiftLength.toNat + signed12 s.fromX)
        ((signed12 s.b - signed12 s.fromY) / 2 ^ s.vgShiftLength.toNat + signed12 s.fromY) s.vgColour := by
  simp only [State.drawRequest, interpolate_eq, sext12_eq_signed12]

/-- Settles O53: the draw request in numbers. -/
theorem vdrEmitsOneVector : Obligations.VdrEmitsOneVector := by
  unfold Obligations.VdrEmitsOneVector
  intro s
  exact ⟨_, rfl, congrArg (s.out.ops ++ [·]) (drawRequest_eq s), idle_eq_next s.ds, exec_changesOnly (i := .vdr) rfl⟩

/-- Dividing by a power of two, rounded down, stays between 0 and the dividend. -/
theorem div_two_pow_between (d : Int) (shift : Nat) : min 0 d ≤ d / 2 ^ shift ∧ d / 2 ^ shift ≤ max 0 d := by
  have hpow : (1 : Int) ≤ 2 ^ shift := one_le_pow₀ (by decide)
  rcases lt_or_ge d 0 with hneg | hnonneg
  · have hle : d * 2 ^ shift ≤ d := by nlinarith
    have hlow : d ≤ d / 2 ^ shift := Int.le_ediv_of_mul_le (by omega) hle
    have hhigh : d / 2 ^ shift < 0 := Int.ediv_neg_of_neg_of_pos hneg (by omega)
    omega
  · have hlow : 0 ≤ d / 2 ^ shift := Int.ediv_nonneg hnonneg (by omega)
    have hhigh : d / 2 ^ shift ≤ d := Int.ediv_le_self _ hnonneg
    omega

theorem signed12_range (v : Word) : -2048 ≤ signed12 v ∧ signed12 v ≤ 2047 := by
  have hv : v.toNat < 4096 := v.isLt
  unfold signed12
  split <;> omega

/-- Settles O54: the quotient of a difference lies between 0 and the difference. -/
theorem vdrEndPointBetweenOriginAndTarget : Obligations.VdrEndPointBetweenOriginAndTarget := by
  unfold Obligations.VdrEndPointBetweenOriginAndTarget
  intro s
  obtain ⟨t, hexec, hops, -⟩ := vdrEmitsOneVector s
  have hx := div_two_pow_between (signed12 s.a - signed12 s.fromX) s.vgShiftLength.toNat
  have hy := div_two_pow_between (signed12 s.b - signed12 s.fromY) s.vgShiftLength.toNat
  have ha := signed12_range s.a
  have hb := signed12_range s.b
  have hfromX := signed12_range s.fromX
  have hfromY := signed12_range s.fromY
  refine ⟨_, _, _, _, _, ⟨t, hexec, hops⟩, ?_⟩
  omega

/-- Settles O57: the signal and the next dispatch state. -/
theorem waiRaisesWaitRequest : Obligations.WaiRaisesWaitRequest := by
  unfold Obligations.WaiRaisesWaitRequest
  refine ⟨fun pol operand => ⟨rfl, rfl⟩, rfl, rfl, fun v s => ?_⟩
  exact ⟨_, rfl, rfl, idle_eq_next s.ds, exec_changesOnly (i := .wai v) rfl⟩

end Sys2Proof.Machine
end

section
/-! The long line test (46_io_vector.md section 3, R257): `lltLoop_spec` in numbers, and why only the pair (0, 0)
overflows the counter. -/

namespace Sys2Proof.Machine

/-- A bit of a shifted word, in numbers. -/
theorem getLsbD_shiftLeft_eq_testBit (v : Word) (m : Nat) {bit : Nat} (hbit : bit < 12) :
    (v <<< m).getLsbD bit = (v.toNat * 2 ^ m).testBit bit := by
  rw [BitVec.getLsbD, BitVec.toNat_shiftLeft, Nat.testBit_mod_two_pow, Nat.shiftLeft_eq, decide_eq_true hbit,
    Bool.true_and]

theorem agrees_shiftLeft_iff (v : Word) (m : Nat) : agrees (v <<< m) = true ↔ bitsAgree (v.toNat * 2 ^ m) := by
  rw [agrees, beq_iff_eq, getLsbD_shiftLeft_eq_testBit v m (by decide), getLsbD_shiftLeft_eq_testBit v m (by decide)]
  rfl

theorem shiftLeft_toNat (v : Word) (m : Nat) : (v <<< m).toNat = v.toNat * 2 ^ m % 4096 := by
  rw [BitVec.toNat_shiftLeft, Nat.shiftLeft_eq]

/-- The count register takes the steps modulo 256 (46_io_vector.md R257). -/
theorem lltCount_toNat {k : Nat} (hk : k ≤ 256) : (lltCount k).toNat = k % 256 := by
  unfold lltCount
  split
  · subst k
    rfl
  · exact BitVec.toNat_ofNat k 8

/-- What LLT leaves when its loop makes `k` steps (46_io_vector.md R257). -/
def lltState (k : Nat) (s : State) : State :=
  ((s.setAB (s.a <<< k) (s.b <<< k)).setShiftLength (lltCount k) k).toAA

theorem exec_llt (v : Form) (s : State) : exec (.llt v) s = .next (lltState (lltLoop 256 s.a s.b).1 s) := by
  obtain ⟨-, hregs, -, -⟩ := lltLoop_spec 256 s.a s.b
  simp only [exec, execLlt, lltState, hregs]

theorem lltState_changesOnly (k : Nat) (s : State) :
    ChangesOnly [.a, .b, .vgShiftLength, .lltSteps, .ds] s (lltState k s) :=
  ((setAB_changesOnly s _ _).trans (setShiftLength_changesOnly _ _ _)).trans (toAA_changesOnly _)

/-- Settles O55: the loop of `lltLoop_spec`, in numbers. -/
theorem lltNormalisesBothAccumulators : Obligations.LltNormalisesBothAccumulators := by
  unfold Obligations.LltNormalisesBothAccumulators
  intro v s
  have hexec := exec_llt v s
  obtain ⟨hk, -, hbefore, hstop⟩ := lltLoop_spec 256 s.a s.b
  simp only [agrees_shiftLeft_iff] at hbefore hstop
  generalize (lltLoop 256 s.a s.b).1 = k at hexec hk hbefore hstop
  exact ⟨_, hexec, k, hk, hbefore, hstop, shiftLeft_toNat s.a k, shiftLeft_toNat s.b k, lltCount_toNat hk, rfl, rfl,
    lltState_changesOnly k s⟩

/-! ### Overflow -/

/-- Agreement after eleven shifts and fewer passes down the bits of a word, two at a time, and below bit 0 there are
only zeros; so a word that agrees twelve times is 0. -/
theorem eq_zero_of_agrees {v : Word} (h : ∀ m, m < 12 → agrees (v <<< m) = true) : v = 0 := by
  have hbit (i : Nat) (hi : i < 12) : v.getLsbD i = if i < 2 then false else v.getLsbD (i - 2) := by
    have hagree := h (11 - i) (by omega)
    have htop : 11 - (11 - i) = i := by omega
    have hinside : ¬11 < 11 - i := by omega
    rw [agrees, beq_iff_eq, BitVec.getLsbD_shiftLeft, BitVec.getLsbD_shiftLeft, htop] at hagree
    split
    · have hshifted : 9 < 11 - i := by omega
      simpa [hshifted, hinside] using hagree
    · have hshifted : ¬9 < 11 - i := by omega
      have hnext : 9 - (11 - i) = i - 2 := by omega
      simpa [hnext, hshifted, hinside] using hagree
  have hzero (i : Nat) : i < 12 → v.getLsbD i = false := by
    induction i using Nat.strong_induction_on with
    | h i ih =>
      intro hi
      rw [hbit i hi]
      split
      · rfl
      · exact ih (i - 2) (by omega) (by omega)
  exact BitVec.eq_of_getLsbD_eq fun i hi => (hzero i hi).trans BitVec.getLsbD_zero.symm

/-- The loop runs out of steps on the pair (0, 0). -/
theorem lltLoop_steps_zero : (lltLoop 256 0 0).1 = 256 := by
  obtain ⟨hle, -, -, hstop⟩ := lltLoop_spec 256 0 0
  by_contra hne
  apply hstop (by omega)
  have hagree : agrees ((0#12) <<< (lltLoop 256 0 0).1) = true := by
    rw [BitVec.zero_shiftLeft]
    decide
  exact ⟨hagree, hagree⟩

/-- The loop stops by disagreement on any other pair (46_io_vector.md R257, the corner cases). -/
theorem lltLoop_steps_le {a b : Word} (h : ¬(a = 0 ∧ b = 0)) : (lltLoop 256 a b).1 ≤ 11 := by
  obtain ⟨-, -, hbefore, -⟩ := lltLoop_spec 256 a b
  by_contra hlt
  exact h ⟨eq_zero_of_agrees fun m hm => (hbefore m (by omega)).1,
    eq_zero_of_agrees fun m hm => (hbefore m (by omega)).2⟩

/-- Settles O56: agreement twelve times in a row means 0. -/
theorem lltOverflowsOnZeroOnly : Obligations.LltOverflowsOnZeroOnly := by
  unfold Obligations.LltOverflowsOnZeroOnly
  intro v s
  refine ⟨_, exec_llt v s, fun ⟨ha, hb⟩ => ?_, fun h => ?_⟩
  · rw [ha, hb, lltLoop_steps_zero]
    exact ⟨rfl, rfl, by simp [lltState, ha], by simp [lltState, hb]⟩
  · have hsteps := lltLoop_steps_le h
    generalize (lltLoop 256 s.a s.b).1 = k at hsteps
    exact ⟨hsteps, (lltCount_toNat (by omega)).trans (Nat.mod_eq_of_lt (by omega))⟩

end Sys2Proof.Machine
end

section
/-! Whole-machine rules of one instruction (10_state.md, 40_dispatch.md section 2): which instructions write a field,
the next dispatch state, and the runs of several instructions. Each is read off `Instr.writes` or the next-state
class. -/

namespace Sys2Proof.Machine

/-! ### The writers of a field -/

/-- Who writes the control registers, the vector unit's registers and RAM, read off the table `Instr.writes`. -/
theorem writers_of_registers (i : Instr) :
    (.p ∈ i.writes → ∃ n, i = .ldp n) ∧ (.j ∈ i.writes → (∃ x, i = .ldji x) ∨ ∃ v, i = .ldjr v) ∧
      (.fromX ∈ i.writes ∨ .fromY ∈ i.writes → i = .vin) ∧ (.vgColour ∈ i.writes → ∃ n, i = .out n) ∧
      (.vgShiftLength ∈ i.writes → ∃ v, i = .llt v) ∧
      (.i ∈ i.writes → ∃ n, i = .add n ∨ i = .sub n ∨ i = .lda n ∨ i = .cmp n ∨ i = .sta n ∨ i = .ldi n) ∧
      (.ram ∈ i.writes → (∃ n, i = .sta n) ∨ ∃ v, i = .star v) := by
  cases i <;> simp [Instr.writes, resultFields, laggedFlags, portFields, jumpFields]

/-- The accumulators and the flags are written by the accumulator class alone (40_dispatch.md R125). -/
theorem accumulator_of_mem_writes {i : Instr} {f : Field} (hf : f ∈ [.a, .b, .cmpOld, .cmpNew, .accA0, .carry])
    (h : f ∈ i.writes) : i.nextClass = .accumulator := by
  cases i <;> grind [Instr.writes, Instr.nextClass, portFields, jumpFields]

/-- The host's fields are written by nothing (10_state.md R26, R35; logs 7 and 8). -/
theorem hostField_not_mem_writes (i : Instr) :
    ∀ f ∈ [Field.t, .jumpPolarity, .addressSpaceSize, .monitorMode, .placeholders, .colour64, .colourGame],
      f ∉ i.writes := by
  cases i <;> simp only [Instr.writes] <;> decide

/-- A field that differs is one that the instruction writes. -/
theorem mem_writes_of_not_same {i : Instr} {s t : State} {f : Field} (hexec : exec i s = .next t)
    (h : ¬f.Same s t) : f ∈ i.writes := by
  by_contra hf
  exact h (exec_changesOnly hexec f hf)

/-- Settles O14: a register that differs is one that the instruction lists. -/
theorem registersHaveTheirWriters : Obligations.RegistersHaveTheirWriters := by
  unfold Obligations.RegistersHaveTheirWriters
  intro i s t hexec
  have hmem {f : Field} (h : ¬f.Same s t) : f ∈ i.writes := mem_writes_of_not_same hexec h
  obtain ⟨hp, hj, hfrom, hcolour, hlength, hi, hram⟩ := writers_of_registers i
  refine ⟨fun h => hp (hmem h), fun h => hj (hmem h), fun h => hfrom (h.imp hmem hmem), fun h => hcolour (hmem h),
    fun h => hlength (hmem h), fun h => hi (hmem h), fun ⟨ea, h⟩ => hram (hmem fun hsame => h (hsame ea))⟩

/-! ### The next dispatch state -/

theorem shiftEntry_ds (op : Byte) (move : State → State) (s : State) : (s.shiftEntry op move).ds = .aa := by
  rw [shiftEntry_eq, setDs_ds]

/-- Settles O8: class by class. -/
theorem nextStateFollowsClass : Obligations.NextStateFollowsClass := by
  unfold Obligations.NextStateFollowsClass
  intro i s
  cases i with
  | ldai n | lda n | ldar v | inp n | addi n | addx imm | add n | addr v | subi n | subx imm | sub n | subr v | cmp n
  | andr v | xlt v | llt v => exact ⟨_, rfl, rfl⟩
  | lsre | lsle | asre | asrde | lslde | lsrf | lslf | asrf | asrdf | lsldf => exact ⟨_, rfl, shiftEntry_ds _ _ s⟩
  | mul v =>
    refine ⟨_, rfl, ?_⟩
    split
    · rfl
    · rw [mulStepA_eq]; rfl
  | ldji x | ldjr v | ldp n | ldi n | sta n | star v | vin | vdr | wai v | jmp | jmi | jlt | jeq | jnc | ja0 =>
    exact ⟨_, rfl, idle_eq_next s.ds⟩
  | jei =>
    refine ⟨_, rfl, ?_⟩
    simp only [toIdle_eq, setDs_ds, branch_ds, readAxis_ds]
    exact idle_eq_next s.ds
  | out n =>
    refine ⟨_, rfl, ?_⟩
    split
    · exact idle_eq_next s.ds
    · rw [outPortBit_eq]
      exact idle_eq_next s.ds
  | jdr | nop => exact ⟨_, rfl, rfl⟩
  | jppb | jmib | jdrb | jltb | jeqb | jncb | ja0b | nopb => exact ⟨_, rfl, flip_eq_next s.ds⟩
  | jeib =>
    refine ⟨_, rfl, ?_⟩
    simp only [toFlip_eq, setDs_ds, branch_ds, readAxis_ds]
    exact flip_eq_next s.ds

/-- The next dispatch state of an instruction that answers one. -/
theorem exec_ds {i : Instr} {s t : State} (h : exec i s = .next t) : t.ds = i.nextClass.next s.ds :=
  (nextStateFollowsClass i s).of_exec h

/-! ### Instructions one after the other -/

/-- A list of instructions runs its head and goes on from there. -/
theorem execAll_cons {i : Instr} {s t : State} (rest : List Instr) (h : exec i s = .next t) :
    execAll (i :: rest) s = execAll rest t := by
  simp only [execAll, h]

/-- Every list of instructions completes, and keeps each field that none of them writes. -/
theorem execAll_completes (is : List Instr) (s : State) :
    ∃ t, execAll is s = some t ∧ ∀ f : Field, (∀ i ∈ is, f ∉ i.writes) → f.Same s t := by
  induction is generalizing s with
  | nil => exact ⟨s, rfl, fun f _ => Field.Same.refl f s⟩
  | cons i rest ih =>
    obtain ⟨t, hexec⟩ := exec_completes i s
    obtain ⟨u, hrest, hsame⟩ := ih t
    refine ⟨u, (execAll_cons rest hexec).trans hrest, fun f hf => ?_⟩
    rw [List.forall_mem_cons] at hf
    exact (exec_changesOnly hexec f hf.1).trans (hsame f hf.2)

/-- Settles O15: the flags and the accumulators are fields that these instructions do not write. -/
theorem laggedFlagsSurviveOtherClasses : Obligations.LaggedFlagsSurviveOtherClasses := by
  unfold Obligations.LaggedFlagsSurviveOtherClasses
  intro is s hclass
  obtain ⟨t, hrun, hsame⟩ := execAll_completes is s
  have hflag (f : Field) (hf : f ∈ laggedFlags) : f.Same s t := by
    refine hsame f fun i hi hwrites => ?_
    rcases hclass i hi with hother | ⟨v, rfl⟩
    · exact hother (accumulator_of_mem_writes (by grind [laggedFlags]) hwrites)
    · grind [Instr.writes, laggedFlags]
  refine ⟨t, hrun, hflag .cmpOld (by decide), hflag .cmpNew (by decide), hflag .accA0 (by decide),
    hflag .carry (by decide), fun hother => ⟨hsame .a fun i hi hwrites => ?_, hsame .b fun i hi hwrites => ?_⟩⟩
  · exact hother i hi (accumulator_of_mem_writes (by decide) hwrites)
  · exact hother i hi (accumulator_of_mem_writes (by decide) hwrites)

/-- No class but the accumulator one leaves the B side (40_dispatch.md R125, R126). -/
theorem next_stays_on_b {c : NextClass} {d : DispatchState} (hc : c ≠ .accumulator) (hd : d = .b ∨ d = .bb) :
    c.next d = .b ∨ c.next d = .bb := by
  rcases hd with rfl | rfl <;> cases c <;> simp_all [NextClass.next]

/-- The B side lasts through instructions that are not accumulator-class. -/
theorem execAll_stays_on_b {is : List Instr} {s : State} (hside : s.ds = .b ∨ s.ds = .bb)
    (hclass : ∀ i ∈ is, i.nextClass ≠ .accumulator) :
    ∃ t, execAll is s = some t ∧ (t.ds = .b ∨ t.ds = .bb) := by
  induction is generalizing s with
  | nil => exact ⟨s, rfl, hside⟩
  | cons i rest ih =>
    rw [List.forall_mem_cons] at hclass
    obtain ⟨t, hexec⟩ := exec_completes i s
    have ht : t.ds = .b ∨ t.ds = .bb := by
      rw [exec_ds hexec]
      exact next_stays_on_b hclass.1 hside
    obtain ⟨u, hrest, hu⟩ := ih ht hclass.2
    exact ⟨u, (execAll_cons rest hexec).trans hrest, hu⟩

/-- Settles O9: the run stays on the B side by its next-state classes, and the last instruction leaves it by its own. -/
theorem bSideLastsUntilAccumulatorOp : Obligations.BSideLastsUntilAccumulatorOp := by
  unfold Obligations.BSideLastsUntilAccumulatorOp
  intro before last s hside hbefore hlast
  obtain ⟨t, hrun, ht⟩ := execAll_stays_on_b hside hbefore
  obtain ⟨u, hexec⟩ := exec_completes last t
  have hu : u.ds = .aa := by
    rw [exec_ds hexec, hlast]
    rfl
  exact ⟨t, u, hrun, ht, hexec, hu⟩

/-! ### Equivalent instructions -/

/-- Settles O18: the two bytes of a pair have one meaning, and OUT and INP on the B side read three bits of their
nibble. -/
theorem aliasesBehaveAlike : Obligations.AliasesBehaveAlike := by
  unfold Obligations.AliasesBehaveAlike
  have hindex (n : BitVec 4) : bitIndex3 (n + 8) = bitIndex3 n := by
    revert n
    decide
  refine ⟨fun fn s hlow hhigh => ?_, fun n s => ?_, fun n s hside => ?_, fun s => ⟨rfl, rfl⟩,
    fun pol operand => ⟨rfl, rfl, rfl, rfl⟩⟩
  · rw [decodeRowE, decodeRowF]
    interval_cases fn.toNat <;> rfl
  · simp only [exec, execOut, hindex]
  · simp only [exec, execInp, inpIndex, (onB_eq_true_iff s.ds).2 hside, if_true, hindex]

end Sys2Proof.Machine
end

section
/-! The step (40_dispatch.md section 1): what the fetch leaves for `exec`, what every instruction keeps of the memories
and the carry scratch, and from these the invariants and the frame of the step. -/

namespace Sys2Proof.Machine

/-! ### The fetch -/

/-- The state after one fetched byte. -/
theorem fetched_one (s : State) :
    s.clearOut.fetched 1 = { s with pc := s.pc + 1, out := { ops := [.fetch s.pc] } } := rfl

/-- The state after two fetched bytes. -/
theorem fetched_two (s : State) :
    s.clearOut.fetched 2 = { s with pc := s.pc + 2, out := { ops := [.fetch s.pc, .fetch (s.pc + 1)] } } := by
  have hpc : s.pc + 1 + 1 = s.pc + 2 := by rw [BitVec.add_assoc]; rfl
  rw [← hpc]
  rfl

/-- The fetch moves PC and records its Fetches, the first of them at PC; it touches nothing else. -/
theorem fetched_eq (s : State) :
    ∃ pc ops, s.clearOut.fetched s.lengthAtPc = { s with pc := pc, out := { ops := ops } } ∧
      ops.head? = some (.fetch s.pc) := by
  rcases opLength_eq_one_or_two s.opByteAtPc with h | h
  · exact ⟨_, _, by rw [State.lengthAtPc, h, fetched_one], rfl⟩
  · exact ⟨_, _, by rw [State.lengthAtPc, h, fetched_two], rfl⟩

/-- A step is the meaning of the instruction at PC, on the state with only PC and the outputs changed. -/
theorem step_eq_exec (s : State) :
    ∃ pc ops, step s = exec s.instrAtPc { s with pc := pc, out := { ops := ops } } ∧
      ops.head? = some (.fetch s.pc) := by
  obtain ⟨pc, ops, hfetched, hhead⟩ := fetched_eq s
  exact ⟨pc, ops, by rw [step, hfetched], hhead⟩

/-- Settles O7: every arm of the dispatch is a next state. -/
theorem everyStepCompletes : Obligations.EveryStepCompletes := by
  unfold Obligations.EveryStepCompletes
  exact fun s => exec_completes _ _

/-- A one-byte opcode does not look at the byte behind it. -/
theorem decodeOp_of_opLength_eq_one (pol : JumpPolarity) {op : Byte} (operand : Byte) (h : opLength op = 1) :
    decodeOp pol op operand = decodeOp pol op 0 := by
  induction op using forall_opByte with
  | h grp n =>
    rw [opLength_opByte] at h
    rcases group_cases grp with
      (rfl | rfl | rfl | rfl | rfl | rfl) | rfl | rfl | rfl | rfl | rfl | rfl | rfl | rfl | rfl | rfl <;>
      simp_all

/-- Settles O6: by the length of the opcode at PC. -/
theorem stepRunsDecodedInstruction : Obligations.StepRunsDecodedInstruction := by
  unfold Obligations.StepRunsDecodedInstruction
  intro s i rest hdecode
  change decode s.jumpPolarity [s.opByteAtPc, s.operandAtPc] = _ at hdecode
  rcases opLength_eq_one_or_two s.opByteAtPc with h | h
  · rw [decode_of_opLength_eq_one _ _ h] at hdecode
    cases hdecode
    rw [if_neg (List.cons_ne_nil _ _), step, State.lengthAtPc, h, fetched_one, State.instrAtPc,
      decodeOp_of_opLength_eq_one _ _ h]
  · rw [decode_of_opLength_ne_one _ _ _ (by omega)] at hdecode
    cases hdecode
    rw [if_pos rfl, step, State.lengthAtPc, h, fetched_two, State.instrAtPc]

/-! ### The memories and the carry scratch -/

/-- Program storage is as before, and RAM is as before or has one cell written. -/
def KeepsMemories (s t : State) : Prop := t.prog = s.prog ∧ (t.ram = s.ram ∨ ∃ ea v, t.ram = ramWrite s.ram ea v)

/-- The carry scratch keeps its top three bits clear (10_state.md R32). -/
def KeepsCarryBound (s t : State) : Prop := s.carry.toNat < 0x2000 → t.carry.toNat < 0x2000

theorem carry_lt_of_lt {raw : Nat} (h : raw < 0x2000) : (BitVec.ofNat 16 raw).toNat < 0x2000 := by
  rwa [carry_toNat_of_lt (by omega)]

/-- The double right shift writes the two accumulators, on either side (44_shift.md R205). -/
theorem shiftPairRight_eq_setAB (s : State) : ∃ x y, s.shiftPairRight = s.setAB x y := by
  unfold State.shiftPairRight
  split <;> exact ⟨_, _, rfl⟩

/-- What a shift entry can leave: a placeholder's state, or the flags with both accumulators written. -/
theorem shiftEntry_cases {op : Byte} {move : State → State} {s : State}
    (hmove : ∀ r, ∃ x y, move r = State.setAB x y r) :
    s.shiftEntry op move = s.toAA ∨ ∃ x y, s.shiftEntry op move = ((s.shiftFlags op).setAB x y).toAA := by
  unfold State.shiftEntry
  split
  · exact .inl rfl
  · obtain ⟨x, y, h⟩ := hmove (s.shiftFlags op)
    exact .inr ⟨x, y, congrArg State.toAA h⟩

theorem shiftEntry_keepsMemories {op : Byte} {move : State → State} {s : State}
    (hmove : ∀ r, ∃ x y, move r = State.setAB x y r) : KeepsMemories s (s.shiftEntry op move) := by
  rcases shiftEntry_cases hmove with h | ⟨x, y, h⟩ <;> exact h ▸ ⟨rfl, .inl rfl⟩

/-- The sum of two words is below 0x2000. -/
theorem word_add_lt_carryBound (x y : Word) : x.toNat + y.toNat < 0x2000 := by
  have hx : x.toNat < 4096 := x.isLt
  have hy : y.toNat < 4096 := y.isLt
  omega

theorem rawDifference_lt (x y : Word) : rawDifference x y < 0x2000 := by
  have hx : x.toNat < 4096 := x.isLt
  rw [rawDifference_eq]
  omega

theorem shiftEntry_keepsCarryBound {op : Byte} {move : State → State} {s : State}
    (hmove : ∀ r, ∃ x y, move r = State.setAB x y r) : KeepsCarryBound s (s.shiftEntry op move) := by
  intro hs
  rcases shiftEntry_cases hmove with h | ⟨x, y, h⟩ <;> rw [h]
  · exact hs
  · exact carry_lt_of_lt (word_add_lt_carryBound (magic op) s.acc)

/-- Every instruction keeps program storage and writes at most one RAM cell (20_memory.md section 1). -/
theorem completes_keepsMemories (i : Instr) (s : State) : Completes i s (KeepsMemories s) := by
  cases i with
  | sta n | star v => exact ⟨_, rfl, rfl, .inr ⟨_, _, rfl⟩⟩
  | lsre | lsle | asre | lsrf | lslf | asrf | lslde | lsldf =>
    exact ⟨_, rfl, shiftEntry_keepsMemories fun r => ⟨_, _, rfl⟩⟩
  | asrde | asrdf => exact ⟨_, rfl, shiftEntry_keepsMemories shiftPairRight_eq_setAB⟩
  | mul v =>
    refine ⟨_, rfl, ?_⟩
    split
    · exact ⟨rfl, .inl rfl⟩
    · rw [mulStepA_eq]
      exact ⟨rfl, .inl rfl⟩
  | out n =>
    refine ⟨_, rfl, ?_⟩
    split
    · exact ⟨rfl, .inl rfl⟩
    · rw [outPortBit_eq]
      exact ⟨rfl, .inl rfl⟩
  | jei | jeib =>
    refine ⟨_, rfl, ?_⟩
    rw [readAxis_eq]
    exact ⟨rfl, .inl rfl⟩
  | _ => exact ⟨_, rfl, rfl, .inl rfl⟩

/-- Every instruction keeps carry[15:13] clear: the accumulator class writes the sum of two words or the difference of
two, and no other class writes it (42_arith_logic.md section 1). -/
theorem completes_keepsCarryBound (i : Instr) (s : State) : Completes i s (KeepsCarryBound s) := by
  by_cases hwrites : .carry ∈ i.writes
  case neg =>
    obtain ⟨t, hexec⟩ := exec_completes i s
    have hsame : t.carry = s.carry := exec_changesOnly hexec .carry hwrites
    exact ⟨t, hexec, fun hs => hsame ▸ hs⟩
  case pos =>
    have hacc (r : State) : r.acc.toNat < 0x2000 := by
      have h : r.acc.toNat < 4096 := r.acc.isLt
      omega
    cases i with
    | ldai n | lda n | ldar v | inp n | xlt v => exact ⟨_, rfl, fun _ => carry_lt_of_lt (hacc _)⟩
    | addi n | addx imm | add n | addr v => exact ⟨_, rfl, fun _ => carry_lt_of_lt (word_add_lt_carryBound _ _)⟩
    | subi n | subx imm | sub n | subr v | cmp n => exact ⟨_, rfl, fun _ => carry_lt_of_lt (rawDifference_lt _ _)⟩
    | andr v =>
      have hand : (s.acc &&& s.cellAtI).toNat < 4096 := (s.acc &&& s.cellAtI).isLt
      exact ⟨_, rfl, fun _ => carry_lt_of_lt (by omega)⟩
    | lsre | lsle | asre | lsrf | lslf | asrf | lslde | lsldf =>
      exact ⟨_, rfl, shiftEntry_keepsCarryBound fun r => ⟨_, _, rfl⟩⟩
    | asrde | asrdf => exact ⟨_, rfl, shiftEntry_keepsCarryBound shiftPairRight_eq_setAB⟩
    | mul v =>
      refine ⟨_, rfl, fun _ => ?_⟩
      split
      · exact carry_lt_of_lt (word_add_lt_carryBound _ _)
      · rw [mulStepA_eq]
        apply carry_lt_of_lt
        split <;> exact word_add_lt_carryBound _ _
    | _ => simp [Instr.writes, portFields, jumpFields] at hwrites

/-! ### The invariants -/

/-- Every instruction keeps the invariant. -/
theorem exec_keeps_inv {i : Instr} {s t : State} (hs : s.Inv) (hexec : exec i s = .next t) : t.Inv := by
  obtain ⟨hwf, hcarry⟩ := hs
  obtain ⟨hram, hprog⟩ := (memoryWf_iff _ _).1 hwf
  obtain ⟨hprogSame, hramSame⟩ := (completes_keepsMemories i s).of_exec hexec
  refine ⟨(memoryWf_iff _ _).2 ⟨?_, hprogSame ▸ hprog⟩, (completes_keepsCarryBound i s).of_exec hexec hcarry⟩
  rcases hramSame with h | ⟨ea, v, h⟩ <;> rw [h]
  · exact hram
  · exact ramWf_ramWrite hram ea v

/-- Settles O11: the fetch touches neither the memories nor the carry scratch, and every instruction keeps the
invariant. -/
theorem stepKeepsInvariant : Obligations.StepKeepsInvariant := by
  unfold Obligations.StepKeepsInvariant
  intro s t hs hstep
  obtain ⟨pc, ops, heq, -⟩ := step_eq_exec s
  rw [heq] at hstep
  exact exec_keeps_inv (s := { s with pc := pc, out := { ops := ops } }) hs hstep

/-- Settles O10: reset clears RAM and carry and keeps program storage. -/
theorem invariantHoldsAtReset : Obligations.InvariantHoldsAtReset := by
  unfold Obligations.InvariantHoldsAtReset
  refine ⟨⟨memoryWf_reset, by decide⟩, fun _ => by decide, fun s hs => ?_⟩
  obtain ⟨-, hprog⟩ := (memoryWf_iff _ _).1 hs.1
  exact ⟨(memoryWf_iff _ _).2 ⟨rfl, hprog⟩, (by decide : (0#16).toNat < 0x2000)⟩

/-- The colour of OUT 6 is a 4-bit code in the two modes that write only such, if it was one before. -/
theorem colourResult_lt {s : State} (hs : s.ColourInv) (hmode : s.monitorMode = .bilevel ∨ s.monitorMode = .level16) :
    s.colourResult.toNat < 16 := by
  have hold := hs hmode
  rw [colourResult_toNat]
  rcases hmode with h | h <;> simp only [h] at hold ⊢
  · split <;> omega
  · split
    · exact hold
    · split <;> omega

/-- Every instruction keeps the colour a 4-bit code: OUT 6 alone writes it (46_io_vector.md R256). -/
theorem exec_keeps_colourInv {i : Instr} {s t : State} (hs : s.ColourInv) (hexec : exec i s = .next t) :
    t.ColourInv := by
  have hmode : t.monitorMode = s.monitorMode :=
    exec_changesOnly hexec .monitorMode (hostField_not_mem_writes i _ (by decide))
  intro hmodes
  rw [hmode] at hmodes
  by_cases hsame : t.vgColour = s.vgColour
  · rw [hsame]
    exact hs hmodes
  · obtain ⟨-, -, -, hwriter, -⟩ := writers_of_registers i
    obtain ⟨n, rfl⟩ := hwriter (mem_writes_of_not_same hexec (f := .vgColour) hsame)
    by_cases hindex : n.toNat % 8 = 6
    · have hcolour : t.vgColour = s.colourResult :=
        Completes.of_exec (P := fun t => t.vgColour = s.colourResult) ⟨_, exec_out_colour s hindex, rfl⟩ hexec
      rw [hcolour]
      exact colourResult_lt hs hmodes
    · refine absurd ?_ hsame
      exact Completes.of_exec (P := fun t => t.vgColour = s.vgColour)
        ⟨_, exec_out_portBit s hindex, by rw [outPortBit_eq]; rfl⟩ hexec

/-- Settles O12: the fetch does not touch the colour, and every instruction keeps it a code. -/
theorem stepKeepsColourCode : Obligations.StepKeepsColourCode := by
  unfold Obligations.StepKeepsColourCode
  intro s t hs hstep
  obtain ⟨pc, ops, heq, -⟩ := step_eq_exec s
  rw [heq] at hstep
  exact exec_keeps_colourInv (s := { s with pc := pc, out := { ops := ops } }) hs hstep

/-- Settles O13: no instruction lists these fields among those it writes. -/
theorem stepNeverWritesHostState : Obligations.StepNeverWritesHostState := by
  unfold Obligations.StepNeverWritesHostState
  intro s t hstep
  obtain ⟨pc, ops, heq, -⟩ := step_eq_exec s
  rw [heq] at hstep
  obtain ⟨hprog, -⟩ := (completes_keepsMemories _ _).of_exec hstep
  have hhost := hostField_not_mem_writes s.instrAtPc
  have hsame := exec_changesOnly hstep
  exact ⟨hsame .t (hhost _ (by decide)), hprog, hsame .jumpPolarity (hhost _ (by decide)),
    hsame .addressSpaceSize (hhost _ (by decide)), hsame .monitorMode (hhost _ (by decide)),
    hsame .placeholders (hhost _ (by decide)), hsame .colour64 (hhost _ (by decide)),
    hsame .colourGame (hhost _ (by decide))⟩

end Sys2Proof.Machine
end

section
/-! What the machine does not read (10_state.md R26, 00_scope.md section 3), the first step after reset
(70_reset_and_hazards.md section 1), and what one step can charge (section 4). -/

namespace Sys2Proof.Machine

/-! ### T and the configuration -/

/-- The state with other values in T and in the three configuration registers. -/
def State.withHost (v : Word) (jp : JumpPolarity) (size : AddressSpaceSize) (mode : MonitorMode) (s : State) : State :=
  { s with t := v, jumpPolarity := jp, addressSpaceSize := size, monitorMode := mode }

section

variable (v : Word) (jp : JumpPolarity) (size : AddressSpaceSize) (mode : MonitorMode)

theorem shiftEntry_withHost {op : Byte} {move : State → State} {s : State}
    (hmove : ∀ r : State, move (r.withHost v jp size mode) = (move r).withHost v jp size mode) :
    (s.withHost v jp size mode).shiftEntry op move = (s.shiftEntry op move).withHost v jp size mode := by
  rw [shiftEntry_eq, shiftEntry_eq]
  change ((if s.isPlaceholder op then _ else move ((s.shiftFlags op).withHost v jp size mode)).setDs .aa) = _
  rw [hmove]
  split <;> rfl

theorem shiftPairRight_withHost (s : State) :
    (s.withHost v jp size mode).shiftPairRight = s.shiftPairRight.withHost v jp size mode := by
  rw [shiftPairRight_eq, shiftPairRight_eq]
  rfl

theorem mulStepA_withHost (s : State) (m : Word) :
    (s.withHost v jp size mode).mulStepA m = (s.mulStepA m).withHost v jp size mode := by
  rw [mulStepA_eq, mulStepA_eq]
  rfl

/-- An instruction reads of these four fields at most the address space size, if it is JPPB, and the monitor mode, if
it is OUT. -/
theorem exec_withHost {i : Instr} {s u : State} (hexec : exec i s = .next u)
    (hsize : i = .jppb → size = s.addressSpaceSize) (hmode : (∃ n, i = .out n) → mode = s.monitorMode) :
    exec i (s.withHost v jp size mode) = .next (u.withHost v jp size mode) := by
  cases i with
  | jppb =>
    obtain rfl := hsize rfl
    cases hexec
    rfl
  | out n =>
    obtain rfl := hmode ⟨n, rfl⟩
    cases hexec
    by_cases h : bitIndex3 n = 6
    · simp only [exec, execOut, if_pos h]
      rfl
    · simp only [exec, execOut, if_neg h]
      rfl
  | lsre | lsle | asre | lsrf | lslf | asrf | lslde | lsldf =>
    cases hexec
    exact congrArg Host.Outcome.next (shiftEntry_withHost v jp size mode fun r => rfl)
  | asrde | asrdf =>
    cases hexec
    exact congrArg Host.Outcome.next (shiftEntry_withHost v jp size mode (shiftPairRight_withHost v jp size mode))
  | mul x =>
    cases hexec
    by_cases h : s.ds.onB = true
    · simp only [exec, execMul, if_pos h]
      exact congrArg Host.Outcome.next (if_pos h)
    · simp only [exec, execMul, if_neg h]
      exact congrArg Host.Outcome.next ((if_neg h).trans (mulStepA_withHost v jp size mode s s.cellAtI))
  | _ =>
    cases hexec
    rfl

end

/-- What the instructions leave in the four fields. -/
theorem exec_hostFields {i : Instr} {s u : State} (hexec : exec i s = .next u) :
    u.t = s.t ∧ u.jumpPolarity = s.jumpPolarity ∧ u.addressSpaceSize = s.addressSpaceSize ∧
      u.monitorMode = s.monitorMode := by
  have hsame := exec_changesOnly hexec
  have hhost := hostField_not_mem_writes i
  exact ⟨hsame .t (hhost _ (by decide)), hsame .jumpPolarity (hhost _ (by decide)),
    hsame .addressSpaceSize (hhost _ (by decide)), hsame .monitorMode (hhost _ (by decide))⟩

theorem fetched_withHost (v : Word) (jp : JumpPolarity) (size : AddressSpaceSize) (mode : MonitorMode) (len : Nat)
    (s : State) : (s.withHost v jp size mode).fetched len = (s.fetched len).withHost v jp size mode := by
  induction len generalizing s with
  | zero => rfl
  | succ len ih => exact ih s.fetchPc

/-- Settles O16: the step decodes and fetches without T, and no instruction reads it. -/
theorem stepNeverReadsT : Obligations.StepNeverReadsT := by
  unfold Obligations.StepNeverReadsT
  intro s u v hstep
  obtain ⟨-, -, hjp, hsize, hmode, -⟩ := stepNeverWritesHostState s u hstep
  have hfetched : (s.withHost v s.jumpPolarity s.addressSpaceSize s.monitorMode).clearOut.fetched s.lengthAtPc =
      (s.clearOut.fetched s.lengthAtPc).withHost v s.jumpPolarity s.addressSpaceSize s.monitorMode :=
    fetched_withHost v _ _ _ _ s.clearOut
  obtain ⟨pc, ops, hstate, -⟩ := fetched_eq s
  calc step { s with t := v }
    _ = exec s.instrAtPc
          ((s.clearOut.fetched s.lengthAtPc).withHost v s.jumpPolarity s.addressSpaceSize s.monitorMode) :=
        congrArg (exec s.instrAtPc) hfetched
    _ = .next (u.withHost v s.jumpPolarity s.addressSpaceSize s.monitorMode) :=
        exec_withHost v _ _ _ hstep (fun _ => by rw [hstate]) (fun _ => by rw [hstate])
    _ = .next { u with t := v } := by
        rw [← hjp, ← hsize, ← hmode]
        rfl

/-- The polarity selects among four instructions only (40_dispatch.md R131). -/
theorem available_or_redirected (i : Instr) :
    i.availableUnder .jmiMode = true ∧ i.availableUnder .jeiMode = true ∨
      i = .jmi ∨ i = .jmib ∨ i = .jei ∨ i = .jeib := by
  cases i <;> simp [Instr.availableUnder]

/-- Settles O17: `exec_withHost` with one register changed at a time. -/
theorem onlyRedirectorsReadConfiguration : Obligations.OnlyRedirectorsReadConfiguration := by
  unfold Obligations.OnlyRedirectorsReadConfiguration
  intro i s u jp size mode hexec
  obtain ⟨ht, hjp, hsize, hmode⟩ := exec_hostFields hexec
  refine ⟨?_, fun hi => ?_, fun hi => ?_, available_or_redirected i⟩
  · have h := exec_withHost s.t jp s.addressSpaceSize s.monitorMode hexec (fun _ => rfl) (fun _ => rfl)
    exact h.trans (by rw [← ht, ← hsize, ← hmode]; rfl)
  · have h := exec_withHost s.t s.jumpPolarity size s.monitorMode hexec (fun hjppb => absurd hjppb hi) (fun _ => rfl)
    exact h.trans (by rw [← ht, ← hjp, ← hmode]; rfl)
  · have h := exec_withHost s.t s.jumpPolarity s.addressSpaceSize mode hexec (fun _ => rfl)
      (fun ⟨n, hout⟩ => absurd hout (hi n))
    exact h.trans (by rw [← ht, ← hjp, ← hsize]; rfl)

end Sys2Proof.Machine
end

section
/-! The first step after reset (70_reset_and_hazards.md section 1), what one step can charge (section 4), and the run
loop (40_dispatch.md section 3). -/

namespace Sys2Proof.Machine

/-! ### The first step after reset -/

/-- An instruction adds its interface operations after those of the fetch (20_memory.md R69). -/
theorem completes_appends_ops (i : Instr) (s : State) : Completes i s fun t => ∃ ops, t.out.ops = s.out.ops ++ ops := by
  by_cases hwrites : .ops ∈ i.writes
  case neg =>
    obtain ⟨t, hexec⟩ := exec_completes i s
    have hsame : t.out.ops = s.out.ops := exec_changesOnly hexec .ops hwrites
    exact ⟨t, hexec, [], by rw [hsame, List.append_nil]⟩
  case pos =>
    cases i with
    | inp n | vdr | xlt v => exact ⟨_, rfl, _, rfl⟩
    | out n =>
      refine ⟨_, rfl, ?_⟩
      split
      · exact ⟨[], (List.append_nil _).symm⟩
      · rw [outPortBit_eq]
        exact ⟨_, List.append_assoc _ _ _⟩
    | jei | jeib =>
      refine ⟨_, rfl, ?_⟩
      simp only [toIdle_eq, toFlip_eq, setDs_out, branch_out_ops]
      exact ⟨_, readAxis_out_ops s⟩
    | _ => simp [Instr.writes, resultFields, laggedFlags, jumpFields] at hwrites

/-- A step begins with the Fetch of the byte at PC (40_dispatch.md R121). -/
theorem step_ops_head {s t : State} (hstep : step s = .next t) : t.out.ops.head? = some (.fetch s.pc) := by
  obtain ⟨pc, ops, heq, hhead⟩ := step_eq_exec s
  rw [heq] at hstep
  obtain ⟨more, hmore⟩ := (completes_appends_ops _ _).of_exec hstep
  rw [hmore, List.head?_append, hhead, Option.some_or]

/-- The first step after reset, when its byte decodes to an in-page jump: the jump is decided on the reset values. -/
theorem firstStep_taken {s t : State} {i : Instr} {cond : State → Bool} (hstep : step s.hostReset = .next t)
    (hinstr : s.hostReset.instrAtPc = i) (hjump : ∀ r, JumpsWhen i (cond r) [] r fun _ => True)
    (hcond : ∀ pc out, cond { s.hostReset with pc := pc, out := out } = cond s.hostReset) :
    t.out.taken = cond s.hostReset := by
  obtain ⟨pc, ops, heq, -⟩ := step_eq_exec s.hostReset
  rw [heq, hinstr] at hstep
  rw [← hcond pc { ops := ops }]
  exact ((hjump _).completes_taken rfl).of_exec hstep

/-- The instruction at 0x0000 after reset. -/
theorem hostReset_instrAtPc (s : State) {op : Byte} (h : s.programByte 0 = op) :
    s.hostReset.instrAtPc = decodeOp s.jumpPolarity op (s.programByte 1) := by
  rw [← h]
  rfl

/-- Settles O20: the first jump is decided on the reset values. -/
theorem firstInstructionAfterReset : Obligations.FirstInstructionAfterReset := by
  unfold Obligations.FirstInstructionAfterReset
  intro s
  obtain ⟨t, hstep⟩ := everyStepCompletes s.hostReset
  refine ⟨rfl, rfl, rfl, rfl, rfl, rfl, rfl, rfl, rfl, rfl, t, hstep, step_ops_head hstep, fun h => ?_, fun h => ?_,
    fun h => ?_, fun h => ?_, fun h hpol => ?_⟩
  · exact firstStep_taken hstep (hostReset_instrAtPc s h) jeq_jumpsWhen fun _ _ => rfl
  · exact firstStep_taken hstep (hostReset_instrAtPc s h) jlt_jumpsWhen fun _ _ => rfl
  · exact (firstStep_taken hstep (hostReset_instrAtPc s h) jnc_jumpsWhen fun _ _ => rfl).trans
      (show decide ((0#16).toNat / 4096 = 0) = true by decide)
  · exact firstStep_taken hstep (hostReset_instrAtPc s h) (fun r => jumpsWhen_of_flags (cond := r.accA0) rfl)
      fun _ _ => rfl
  · have hinstr : s.hostReset.instrAtPc = .jmi := by
      rw [hostReset_instrAtPc s h, hpol]
      rfl
    exact (firstStep_taken hstep hinstr (fun r => jumpsWhen_of_flags (cond := r.minus) rfl) fun _ _ => rfl).trans
      (show (0#12).getLsbD 11 = false by decide)

/-! ### The charge of a step -/

/-- No instruction writes two of the outputs that are charged for (40_dispatch.md R128). -/
theorem one_charged_output (i : Instr) :
    (.waitRequest ∉ i.writes ∧ .lltSteps ∉ i.writes) ∨ (.taken ∉ i.writes ∧ .lltSteps ∉ i.writes) ∨
      .taken ∉ i.writes ∧ .waitRequest ∉ i.writes := by
  cases i <;> simp [Instr.writes, resultFields, laggedFlags, portFields, jumpFields]

/-- LLT makes at most 256 steps, and no other instruction makes any (46_io_vector.md R257). -/
theorem lltSteps_le {i : Instr} {s t : State} (hs : s.out.lltSteps ≤ 256) (hexec : exec i s = .next t) :
    t.out.lltSteps ≤ 256 := by
  by_cases hwrites : .lltSteps ∈ i.writes
  case neg =>
    have hsame : t.out.lltSteps = s.out.lltSteps := exec_changesOnly hexec .lltSteps hwrites
    omega
  case pos =>
    cases i with
    | llt v =>
      obtain ⟨k, hk, -, -, -, -, -, hsteps, -⟩ := (lltNormalisesBothAccumulators v s).of_exec hexec
      omega
    | _ => simp [Instr.writes, resultFields, laggedFlags, portFields, jumpFields] at hwrites

/-- Settles O60: of the three surcharges at most one is made, and each is bounded. -/
theorem stepChargeBound : Obligations.StepChargeBound := by
  unfold Obligations.StepChargeBound
  intro c maxCost s t hcost hstep
  obtain ⟨pc, ops, heq, -⟩ := step_eq_exec s
  rw [heq] at hstep
  have hbase := hcost s.opByteAtPc
  have hsteps : c.lltStepCost * t.out.lltSteps ≤ 256 * c.lltStepCost := by
    rw [Nat.mul_comm]
    exact Nat.mul_le_mul_right _ (lltSteps_le (Nat.zero_le _) hstep)
  have htaken (h : .taken ∉ s.instrAtPc.writes) : t.out.taken = false := exec_changesOnly hstep .taken h
  have hwait (h : .waitRequest ∉ s.instrAtPc.writes) : t.out.waitRequest = false :=
    exec_changesOnly hstep .waitRequest h
  have hllt (h : .lltSteps ∉ s.instrAtPc.writes) : t.out.lltSteps = 0 := exec_changesOnly hstep .lltSteps h
  have hjump : (if t.out.taken && decide (s.opByteAtPc ≠ 0x50#8) then 2 else 0) ≤ 2 := by split <;> omega
  have hpenalty : (if t.out.waitRequest then c.waitPenalty else 0) ≤ c.waitPenalty := by split <;> omega
  unfold stepCharge
  rcases one_charged_output s.instrAtPc with ⟨h, h'⟩ | ⟨h, h'⟩ | ⟨h, h'⟩
  · simp only [hwait h, hllt h', Bool.false_eq_true, if_false, Nat.mul_zero]
    omega
  · simp only [htaken h, hllt h', Bool.false_and, Bool.false_eq_true, if_false, Nat.mul_zero]
    omega
  · simp only [htaken h, hwait h', Bool.false_and, Bool.false_eq_true, if_false]
    omega

/-! ### The run loop -/

/-- A loop that returns with budget left at its start made a step and returned from the rest. -/
theorem runLoop_inv {c : CostModel} {fuel : Nat} {budget : Int} {s : State} {r : RunResult} (hbudget : 0 < budget)
    (h : runLoop c fuel budget s = some r) :
    ∃ fuel' t r', fuel = fuel' + 1 ∧ step s = .next t ∧
      runLoop c fuel' (budget - stepCharge c s.opByteAtPc t.out) t = some r' ∧ r = r'.after t.out := by
  cases fuel with
  | zero => simp [runLoop_zero c s hbudget] at h
  | succ fuel =>
    obtain ⟨t, hstep⟩ := everyStepCompletes s
    rw [runLoop_step c fuel hbudget hstep, Option.map_eq_some_iff] at h
    obtain ⟨r', hrest, hr⟩ := h
    exact ⟨fuel, t, r', rfl, hstep, hrest, hr.symm⟩

/-- A loop that returns leaves no budget, and of a budget it overran at most what a step charges beyond 1
(70_reset_and_hazards.md R331). -/
theorem runLoop_remaining {c : CostModel} {fuel : Nat} {budget : Int} {s : State} {r : RunResult} {maxStep : Nat}
    (hmax : ∀ u v, step u = .next v → stepCharge c u.opByteAtPc v.out ≤ maxStep)
    (h : runLoop c fuel budget s = some r) : r.remaining ≤ 0 ∧ min budget (1 - maxStep) ≤ r.remaining := by
  induction fuel generalizing budget s r with
  | zero =>
    rcases Int.lt_or_le 0 budget with hpos | hspent
    · simp [runLoop_zero c s hpos] at h
    · rw [runLoop_spent c 0 s hspent, Option.some_inj] at h
      subst h
      exact ⟨hspent, Int.min_le_left _ _⟩
  | succ fuel ih =>
    rcases Int.lt_or_le 0 budget with hpos | hspent
    · obtain ⟨fuel', t, r', hfuel, hstep, hrest, rfl⟩ := runLoop_inv hpos h
      obtain rfl := Nat.succ.inj hfuel
      have hcharge := hmax s t hstep
      have hih := ih hrest
      rw [after_remaining]
      omega
    · rw [runLoop_spent c _ s hspent, Option.some_inj] at h
      subst h
      exact ⟨hspent, Int.min_le_left _ _⟩

/-- If every step charges, the loop returns within as many steps as the budget has units. -/
theorem runLoop_returns {c : CostModel} (hcharge : ∀ u v, step u = .next v → 1 ≤ stepCharge c u.opByteAtPc v.out)
    {fuel : Nat} {budget : Int} {s : State} (hfuel : budget ≤ fuel) :
    ∃ r, runLoop c fuel budget s = some r ∧ r.outs.length ≤ fuel := by
  induction fuel generalizing budget s with
  | zero => exact ⟨_, runLoop_spent c 0 s hfuel, Nat.le_refl 0⟩
  | succ fuel ih =>
    rcases Int.lt_or_le 0 budget with hpos | hspent
    · obtain ⟨t, hstep⟩ := everyStepCompletes s
      have hone := hcharge s t hstep
      obtain ⟨r, hrest, hlen⟩ := ih (budget := budget - stepCharge c s.opByteAtPc t.out) (s := t) (by omega)
      refine ⟨r.after t.out, ?_, ?_⟩
      · rw [runLoop_step c fuel hpos hstep, hrest, Option.map_some]
      · rw [after_outs, List.length_cons]
        omega
    · exact ⟨_, runLoop_spent c _ s hspent, Nat.zero_le _⟩

/-- A budget of 1 is one step, whatever it charges (70_reset_and_hazards.md R311). -/
theorem run_one_of_step (c : CostModel) (fuel : Nat) {s t : State} (hstep : step s = .next t) :
    run c fuel 1 s = some ⟨t, 1 - stepCharge c s.opByteAtPc t.out, [t.out]⟩ :=
  (run_one c fuel s).trans (runOne_of_step c 1 hstep)

/-- Settles O58: a spent budget, a budget of 1, and the loop. -/
theorem runReturnsWithinBudget : Obligations.RunReturnsWithinBudget := by
  unfold Obligations.RunReturnsWithinBudget
  intro c budget s
  obtain ⟨t, hstep⟩ := everyStepCompletes s
  refine ⟨fun fuel hspent => ?_, fun fuel r hpos hrun => ?_, fun fuel => ?_, fun hcharge => ?_⟩
  · exact ⟨_, (run_of_ne_one c fuel s (by omega)).trans (runLoop_spent c fuel s hspent), rfl, Int.sub_self budget, rfl⟩
  · by_cases hone : budget = 1
    · rw [hone, run_one_of_step c fuel hstep, Option.some_inj] at hrun
      rw [← hrun]
      exact Nat.le_refl 1
    · rw [run_of_ne_one c fuel s hone] at hrun
      obtain ⟨-, u, r', -, -, -, rfl⟩ := runLoop_inv (by omega) hrun
      rw [after_outs, List.length_cons]
      omega
  · exact ⟨_, t, hstep, run_one_of_step c fuel hstep, rfl, rfl, Int.sub_sub_self _ _⟩
  · by_cases hone : budget = 1
    · subst hone
      exact ⟨_, run_one_of_step c _ hstep, Nat.le_refl 1⟩
    · rw [run_of_ne_one c _ s hone]
      exact runLoop_returns hcharge (Int.self_le_toNat budget)

/-- Settles O59: the loop leaves no budget and overruns it by less than one step. -/
theorem runOvershootBound : Obligations.RunOvershootBound := by
  unfold Obligations.RunOvershootBound
  intro c fuel budget s r maxStep hmax hpos
  have hloop (h : runLoop c fuel budget s = some r) :
      budget ≤ r.consumed budget ∧ r.consumed budget ≤ budget - 1 + maxStep := by
    have hremaining := runLoop_remaining hmax h
    unfold RunResult.consumed
    omega
  refine ⟨hloop, fun hrun => ?_⟩
  by_cases hone : budget = 1
  · subst hone
    obtain ⟨t, hstep⟩ := everyStepCompletes s
    rw [run_one_of_step c fuel hstep, Option.some_inj] at hrun
    subst hrun
    have hcharge := hmax s t hstep
    simp only [RunResult.consumed]
    refine ⟨by omega, fun hcase => ?_⟩
    rcases hcase with hne | hcharges
    · exact absurd rfl hne
    · have hcharged := hcharges t hstep
      omega
  · rw [run_of_ne_one c fuel s hone] at hrun
    exact ⟨(hloop hrun).2, fun _ => (hloop hrun).1⟩

end Sys2Proof.Machine
end

section
/-! Memory laws and the host's operations (20_memory.md, 70_reset_and_hazards.md section 2): canonical memories are
determined by their reads, a store is read back, and what reset, set_state, set_register and configure write. -/

namespace Sys2Proof.Machine

/-! ### Canonical memories -/

section

variable {α : Type} {limit : Nat} {keep : α → Bool}

/-- A canonical memory lists only values that it may keep, at addresses below its limit. -/
theorem of_cellAt?_eq_some {lo x : Nat} {v : α} {m : List (Nat × α)} (hm : cellsWf limit keep lo m = true)
    (h : cellAt? m x = some v) : x < limit ∧ keep v = true := by
  induction m generalizing lo with
  | nil => simp at h
  | cons c m ih =>
    obtain ⟨k, w⟩ := c
    obtain ⟨-, hk, hw, hrest⟩ := cellsWf_cons.1 hm
    rw [cellAt?_cons] at h
    split at h
    · rename_i heq
      cases h
      exact ⟨heq ▸ hk, hw⟩
    · exact ih hrest h

theorem cellAt?_cons_self (k : Nat) (v : α) (m : List (Nat × α)) : cellAt? ((k, v) :: m) k = some v := if_pos rfl

/-- Nothing is listed below the head of a canonical memory. -/
theorem cellAt?_cons_below {lo k x : Nat} {v : α} {m : List (Nat × α)}
    (hm : cellsWf limit keep lo ((k, v) :: m) = true) (h : x < k) : cellAt? ((k, v) :: m) x = none :=
  cellAt?_below (cellsWf_cons.2 ⟨Nat.le_refl k, (cellsWf_cons.1 hm).2⟩) h

/-- Canonical memories that list the same have the same first address. -/
theorem not_head_lt_of_cellAt?_eq {lo k k' : Nat} {v v' : α} {m m' : List (Nat × α)}
    (hm' : cellsWf limit keep lo ((k', v') :: m') = true)
    (h : ∀ x, cellAt? ((k, v) :: m) x = cellAt? ((k', v') :: m') x) : ¬k < k' := by
  intro hlt
  have hk := h k
  rw [cellAt?_cons_self, cellAt?_cons_below hm' hlt] at hk
  cases hk

/-- Canonical memories that list the same are the same data (log 14). -/
theorem eq_of_cellAt?_eq {lo : Nat} {m m' : List (Nat × α)} (hm : cellsWf limit keep lo m = true)
    (hm' : cellsWf limit keep lo m' = true) (h : ∀ x, cellAt? m x = cellAt? m' x) : m = m' := by
  induction m generalizing lo m' with
  | nil =>
    cases m' with
    | nil => rfl
    | cons c' m' =>
      have hhead := h c'.1
      rw [cellAt?_cons_self] at hhead
      cases hhead
  | cons c m ih =>
    obtain ⟨k, v⟩ := c
    cases m' with
    | nil =>
      have hhead := h k
      rw [cellAt?_cons_self] at hhead
      cases hhead
    | cons c' m' =>
      obtain ⟨k', v'⟩ := c'
      obtain rfl : k = k' := by
        have hlt := not_head_lt_of_cellAt?_eq hm' h
        have hgt := not_head_lt_of_cellAt?_eq hm fun x => (h x).symm
        omega
      have hhead := h k
      rw [cellAt?_cons_self, cellAt?_cons_self] at hhead
      cases hhead
      obtain ⟨-, -, -, hrest⟩ := cellsWf_cons.1 hm
      obtain ⟨-, -, -, hrest'⟩ := cellsWf_cons.1 hm'
      have htail (x : Nat) : cellAt? m x = cellAt? m' x := by
        by_cases hx : k = x
        · rw [cellAt?_below hrest (by omega), cellAt?_below hrest' (by omega)]
        · simpa only [cellAt?_cons, if_neg hx] using h x
      rw [ih hrest hrest' htail]

end

/-- What a canonical RAM lists at an address is what it reads there, unless that is 0 (log 14). -/
theorem cellAt?_eq_of_ramRead {m : Ram} (hm : ramWf m = true) (x : Nat) :
    cellAt? m x = if x < 256 ∧ ramRead m (BitVec.ofNat 8 x) ≠ 0 then some (ramRead m (BitVec.ofNat 8 x)) else none := by
  cases h : cellAt? m x with
  | none =>
    rw [if_neg]
    rintro ⟨hx, hread⟩
    have haddr : (BitVec.ofNat 8 x).toNat = x := (BitVec.toNat_ofNat x 8).trans (Nat.mod_eq_of_lt hx)
    rw [ramRead, haddr, h] at hread
    exact hread rfl
  | some v =>
    obtain ⟨hx, hv⟩ := of_cellAt?_eq_some hm h
    have haddr : (BitVec.ofNat 8 x).toNat = x := (BitVec.toNat_ofNat x 8).trans (Nat.mod_eq_of_lt hx)
    have hread : ramRead m (BitVec.ofNat 8 x) = v := by
      rw [ramRead, haddr, h]
      rfl
    rw [hread, if_pos ⟨hx, of_decide_eq_true hv⟩]

/-- Settles O24: the reads say which cells are listed, and with what. -/
theorem equalReadsAreEqualRam : Obligations.EqualReadsAreEqualRam := by
  unfold Obligations.EqualReadsAreEqualRam
  intro m m' hm hm' h
  refine eq_of_cellAt?_eq hm hm' fun x => ?_
  rw [cellAt?_eq_of_ramRead hm, cellAt?_eq_of_ramRead hm', h]

/-! ### A store and the next load -/

/-- The side of the next dispatch state of the idle class is the side of the old one. -/
theorem accIn_idle (d : DispatchState) (u : State) : accIn (NextClass.idle.next d) u = accIn d u := by
  cases d <;> rfl

/-- Settles O25: the cell that `storesWriteOneCell` says was written is the one that each of the three loads reads. -/
theorem storeThenLoadReturnsValue : Obligations.StoreThenLoadReturnsValue := by
  unfold Obligations.StoreThenLoadReturnsValue
  intro n v x y s t hram hexec
  obtain ⟨haddr, hsta, -⟩ := storesWriteOneCell n v s hram
  obtain ⟨hi, hcell, -, hds, hframe⟩ := hsta.of_exec hexec
  have hp : t.p = s.p := hframe .p (by decide)
  have hside (u : State) : accIn t.ds u = accIn s.ds u := by rw [hds, accIn_idle]
  obtain ⟨-, ⟨u, hlda, hui, huacc, hunew, -⟩, w, hldar, hwacc, hwnew, -⟩ :=
    loadsFillSelectedAccumulator n v { t with a := x, b := y }
  have hui' : u.i = directAddr n s := BitVec.eq_of_toNat_eq (by rw [hui, haddr, ← hp])
  change (accIn t.ds u).toNat = (t.readRam u.i).toNat at huacc
  change u.cmpNew.toNat = (t.readRam u.i).toNat at hunew
  change (accIn t.ds w).toNat = (t.readRam t.i).toNat at hwacc
  change w.cmpNew.toNat = (t.readRam t.i).toNat at hwnew
  rw [hui', hcell] at huacc hunew
  rw [hi, hcell] at hwacc hwnew
  rw [hside] at huacc hwacc
  refine ⟨⟨u, hlda, BitVec.eq_of_toNat_eq huacc, BitVec.eq_of_toNat_eq hunew⟩,
    ⟨w, hldar, BitVec.eq_of_toNat_eq hwacc, BitVec.eq_of_toNat_eq hwnew⟩, ⟨_, rfl, ?_⟩⟩
  change t.readRam t.i = accIn s.ds s
  rw [hi, hcell]

/-! ### reset -/

/-- Settles O19: the fields are those of `State.reset`. -/
theorem resetTable : Obligations.ResetTable := by
  unfold Obligations.ResetTable
  exact fun s =>
    ⟨⟨rfl, rfl, rfl, rfl, rfl, rfl, rfl, rfl, rfl, rfl, rfl, rfl, rfl, rfl, rfl, rfl, fun ea => rfl⟩, rfl⟩

/-! ### set_state -/

/-- The RAM that a snapshot's cells load, cell by cell (70_reset_and_hazards.md R313). -/
theorem cellAt?_ramOfCells (addr : Nat) (cells : List Nat) (x : Nat) :
    (cellAt? (ramOfCells addr cells) (addr + x)).getD 0 = BitVec.ofNat 12 (cells.getD x 0) := by
  induction cells generalizing addr x with
  | nil => rfl
  | cons c cells ih =>
    have hfirst : cellAt? (ramOfCells (addr + 1) cells) addr = none :=
      cellAt?_below (cellsWf_ramOfCells (addr + 1 + cells.length) (addr + 1) cells (Nat.le_refl _)) (Nat.lt_succ_self _)
    have hrest (y : Nat) : (cellAt? (ramOfCells (addr + 1) cells) (addr + (y + 1))).getD 0 =
        BitVec.ofNat 12 (cells.getD y 0) := by
      rw [← ih (addr + 1) y, Nat.add_right_comm, Nat.add_assoc]
    unfold ramOfCells
    split
    · rename_i hzero
      cases x with
      | zero =>
        rw [Nat.add_zero addr, hfirst]
        exact hzero.symm
      | succ x => exact hrest x
    · cases x with
      | zero =>
        rw [Nat.add_zero addr, cellAt?_cons_self]
        rfl
      | succ x =>
        rw [cellAt?_cons, if_neg (by omega)]
        exact hrest x

theorem readRam_setState (x : Snapshot) (s : State) (ea : Byte) :
    (s.setState x).readRam ea = BitVec.ofNat 12 (x.ram.getD ea.toNat 0) := by
  have hread := cellAt?_ramOfCells 0 (x.ram.take 256) ea.toNat
  rw [Nat.zero_add, List.getD_eq_getElem?_getD, List.getElem?_take_of_lt ea.isLt, ← List.getD_eq_getElem?_getD] at hread
  exact hread

/-- The cells of a snapshot are the RAM reads in order (10_state.md R39). -/
theorem getState_ram_getD (s : State) (ea : Byte) : s.getState.ram.getD ea.toNat 0 = (s.readRam ea).toNat := by
  have hea : ea.toNat < 256 := ea.isLt
  rw [List.getD_eq_getElem?_getD]
  simp [State.getState, hea]

theorem ofNat_toNat_self {w : Nat} (v : BitVec w) : BitVec.ofNat w v.toNat = v := by
  rw [BitVec.ofNat_toNat, BitVec.setWidth_eq]

theorem ofCode_code (d : DispatchState) : DispatchState.ofCode d.code = d := by cases d <;> rfl

theorem code_ofCode (n : Nat) : (DispatchState.ofCode n).code = n % 4 := by
  unfold DispatchState.ofCode
  have hn : n % 4 < 4 := Nat.mod_lt n (by decide)
  interval_cases n % 4 <;> rfl

theorem decide_odd_toNat (n : Nat) : (decide (n % 2 = 1)).toNat = n % 2 := by
  rcases Nat.mod_two_eq_zero_or_one n with h | h <;> simp [h]

/-- The no-op of `set_state(get_state())` (70_reset_and_hazards.md R313). -/
theorem setState_getState {s : State} (hram : ramWf s.ram = true) : s.setState s.getState = s := by
  have hcells : ramOfCells 0 (s.getState.ram.take 256) = s.ram :=
    equalReadsAreEqualRam _ _ (ramWf_setState s.getState s) hram fun ea => by
      calc (s.setState s.getState).readRam ea
        _ = BitVec.ofNat 12 (s.readRam ea).toNat := by rw [readRam_setState, getState_ram_getD]
        _ = s.readRam ea := ofNat_toNat_self _
  have ha0 : decide (s.getState.accA0 % 2 = 1) = s.accA0 := by
    show decide (s.accA0.toNat % 2 = 1) = s.accA0
    cases s.accA0 <;> rfl
  rw [State.setState, hcells, ha0]
  simp only [State.getState, ofNat_toNat_self, ofCode_code]

/-- Settles O21: the RAM is rebuilt from its reads, and every other element from its number. -/
theorem setStateLoadsSnapshot : Obligations.SetStateLoadsSnapshot := by
  unfold Obligations.SetStateLoadsSnapshot
  refine ⟨fun s hram => setState_getState hram, fun x s => ⟨_, rfl, ?_⟩⟩
  refine ⟨BitVec.toNat_ofNat _ _, BitVec.toNat_ofNat _ _, BitVec.toNat_ofNat _ _, BitVec.toNat_ofNat _ _,
    BitVec.toNat_ofNat _ _, BitVec.toNat_ofNat _ _, BitVec.toNat_ofNat _ _, BitVec.toNat_ofNat _ _,
    BitVec.toNat_ofNat _ _, BitVec.toNat_ofNat _ _, BitVec.toNat_ofNat _ _, BitVec.toNat_ofNat _ _,
    BitVec.toNat_ofNat _ _, decide_odd_toNat _, BitVec.toNat_ofNat _ _, code_ofCode _, fun ea => ?_, rfl, rfl, rfl, rfl,
    rfl, rfl, rfl, rfl, rfl, rfl⟩
  rw [readRam_setState]
  exact BitVec.toNat_ofNat _ _

/-! ### configure -/

/-- Settles O23: the names are looked up together, and one that is no member refuses the whole. -/
theorem configureAllOrNothing : Obligations.ConfigureAllOrNothing := by
  unfold Obligations.ConfigureAllOrNothing
  intro polarity size monitor s
  refine ⟨fun jp sz mm hjp hsz hmm => ?_, fun h => ?_⟩
  · refine ⟨{ s with jumpPolarity := jp, addressSpaceSize := sz, monitorMode := mm }, ?_, rfl, rfl, rfl, ?_⟩
    · simp only [State.configure, hjp, hsz, hmm]
    · intro f hf
      cases f <;> simp_all [Field.Same] <;> intros <;> rfl
  · have hnone : JumpPolarity.ofName polarity = none ∨ AddressSpaceSize.ofName size = none ∨
        MonitorMode.ofName monitor = none := by
      rcases h with h | h | h
      · exact .inl (by simp_all [JumpPolarity.ofName])
      · exact .inr (.inl (by simp_all [AddressSpaceSize.ofName]))
      · exact .inr (.inr (by simp_all [MonitorMode.ofName]))
    unfold State.configure
    rcases hnone with h | h | h <;> simp [h]

end Sys2Proof.Machine
end

section
/-! set_register (70_reset_and_hazards.md R314, R315): each id names one field of the snapshot, and the RAM ids one
cell each. -/

namespace Sys2Proof.Machine

/-! ### The ids below 16 -/

/-- The field that an id of the register table names; the ids of the RAM cells, and those outside the table, share
RAM. -/
def registerField : Nat → Field
  | 0 => .pc
  | 1 => .a
  | 2 => .b
  | 3 => .i
  | 4 => .j
  | 5 => .p
  | 6 => .t
  | 7 => .fromX
  | 8 => .fromY
  | 9 => .vgColour
  | 10 => .vgShiftLength
  | 11 => .cmpOld
  | 12 => .cmpNew
  | 13 => .accA0
  | 14 => .carry
  | 15 => .ds
  | _ => .ram

theorem registerField_of_ge {id : Nat} (h : 16 ≤ id) : registerField id = .ram := by
  obtain ⟨k, rfl⟩ := Nat.exists_eq_add_of_le' h
  rfl

theorem registerField_mem_snapshotFields (id : Nat) : registerField id ∈ snapshotFields := by
  unfold registerField
  split <;> decide

/-- Different ids name different fields, unless both name RAM cells. -/
theorem registerField_ne {id other : Nat} (hid : id < 16) (hne : other ≠ id) :
    registerField other ≠ registerField id := by
  have hbelow : ∀ x < 16, ∀ y < 16, y ≠ x → registerField y ≠ registerField x := by decide
  have hram : ∀ x < 16, registerField x ≠ .ram := by decide
  rcases Nat.lt_or_ge other 16 with hother | hother
  · exact hbelow id hid other hother hne
  · rw [registerField_of_ge hother]
    exact (hram id hid).symm

/-- get_register looks at the field of its id alone. -/
theorem getRegister_of_same {id : Nat} {s t : State} (h : (registerField id).Same s t) :
    t.getRegister id = s.getRegister id := by
  unfold State.getRegister
  split <;> simp_all [registerField, Field.Same]

/-- What set_register does to a register that is `width` bits wide (70_reset_and_hazards.md R315). -/
def SetsRegister (id value width : Nat) (s : State) : Prop :=
  ∃ t, s.setRegister id value = some t ∧ t.getRegister id = some (value % 2 ^ width) ∧
    (∀ other, other ≠ id → t.getRegister other = s.getRegister other) ∧ t.prog = s.prog ∧
    ChangesOnly snapshotFields s t

/-- An id below 16 changes the field it names: every other field of the record is the old one, read by `rfl`. -/
theorem setRegister_changesOnly {id value : Nat} {s t : State} (hid : id < 16)
    (hset : s.setRegister id value = some t) :
    ChangesOnly [registerField id] s t := by
  intro f hf
  rw [List.mem_singleton] at hf
  interval_cases id <;> cases hset <;> cases f <;>
    simp only [Field.Same, State.readRam, State.programByte, implies_true] <;>
    exact absurd rfl hf

/-- An id below 16 writes its own field, so every other id reads as before. -/
theorem setsRegister_of_field {id value width : Nat} {s t : State} (hid : id < 16)
    (hset : s.setRegister id value = some t) (hget : t.getRegister id = some (value % 2 ^ width))
    (hprog : t.prog = s.prog) : SetsRegister id value width s := by
  have hframe := setRegister_changesOnly hid hset
  refine ⟨t, hset, hget, fun other hne => ?_, hprog, hframe.mono ?_⟩
  · apply getRegister_of_same
    exact hframe _ (by simpa using registerField_ne hid hne)
  · simpa using registerField_mem_snapshotFields id

/-! ### The ids of the RAM cells -/

theorem setRegister_ram {id : Nat} (value : Nat) (s : State) (h : 256 ≤ id ∧ id < 512) :
    s.setRegister id value = some (s.writeRam (BitVec.ofNat 8 (id - 256)) (BitVec.ofNat 12 value)) := by
  obtain ⟨k, rfl⟩ := Nat.exists_eq_add_of_le' h.1
  exact if_pos h

theorem getRegister_ram {id : Nat} (s : State) (h : 256 ≤ id ∧ id < 512) :
    s.getRegister id = some (s.readRam (BitVec.ofNat 8 (id - 256))).toNat := by
  obtain ⟨k, rfl⟩ := Nat.exists_eq_add_of_le' h.1
  exact if_pos h

/-- An id outside the table is refused (70_reset_and_hazards.md R314, R315). -/
theorem register_refused {id : Nat} (value : Nat) (s : State) (hlow : 16 ≤ id) (hram : ¬(256 ≤ id ∧ id < 512)) :
    s.getRegister id = none ∧ s.setRegister id value = none := by
  obtain ⟨k, rfl⟩ := Nat.exists_eq_add_of_le' hlow
  exact ⟨if_neg hram, if_neg hram⟩

/-- Different RAM ids are different cells. -/
theorem ramAddress_ne {id other : Nat} (hid : 256 ≤ id ∧ id < 512) (hother : 256 ≤ other ∧ other < 512)
    (hne : other ≠ id) : BitVec.ofNat 8 (other - 256) ≠ BitVec.ofNat 8 (id - 256) := by
  intro h
  have hnat := congrArg BitVec.toNat h
  rw [BitVec.toNat_ofNat, BitVec.toNat_ofNat] at hnat
  omega

/-- A RAM id writes one cell, so every other id reads as before. -/
theorem setsRegister_of_ram {id value : Nat} {s : State} (hram : ramWf s.ram = true) (hid : 256 ≤ id ∧ id < 512) :
    SetsRegister id value 12 s := by
  have hframe := writeRam_changesOnly s (BitVec.ofNat 8 (id - 256)) (BitVec.ofNat 12 value)
  refine ⟨_, setRegister_ram value s hid, ?_, fun other hne => ?_, rfl, hframe.mono (by decide)⟩
  · rw [getRegister_ram _ hid, State.readRam, State.writeRam, ramRead_ramWrite_same hram, BitVec.toNat_ofNat]
  · by_cases hother : 256 ≤ other ∧ other < 512
    · rw [getRegister_ram _ hother, getRegister_ram _ hother, State.readRam, State.writeRam,
        ramRead_ramWrite_other s.ram _ (ramAddress_ne hid hother hne)]
      rfl
    · rcases Nat.lt_or_ge other 16 with hlow | hhigh
      · have hfield : ∀ x < 16, registerField x ∉ [Field.ram] := by decide
        exact getRegister_of_same (hframe _ (hfield other hlow))
      · rw [(register_refused value _ hhigh hother).1, (register_refused value _ hhigh hother).1]

/-! ### The table -/

/-- The ids below 16, each with the width of its register. -/
theorem setsRegister_of_lt {id : Nat} (value : Nat) (s : State) (hid : id < 16) :
    ∃ width, registerWidth id = some width ∧ SetsRegister id value width s := by
  have hcases : id = 13 ∨ id = 15 ∨ id = 14 ∨ id < 13 := by omega
  rcases hcases with rfl | rfl | rfl | hword
  · exact ⟨1, rfl, setsRegister_of_field hid rfl (congrArg some (decide_odd_toNat value)) rfl⟩
  · exact ⟨2, rfl, setsRegister_of_field hid rfl (congrArg some (code_ofCode value)) rfl⟩
  · exact ⟨16, rfl, setsRegister_of_field hid rfl (congrArg some (BitVec.toNat_ofNat value 16)) rfl⟩
  · interval_cases id <;>
      exact ⟨_, rfl, setsRegister_of_field hid rfl (congrArg some (BitVec.toNat_ofNat value _)) rfl⟩

theorem registerWidth_ram {id : Nat} (h : 256 ≤ id ∧ id < 512) : registerWidth id = some 12 := by
  simp only [registerWidth]
  grind

theorem registerWidth_refused {id : Nat} (hlow : 16 ≤ id) (hram : ¬(256 ≤ id ∧ id < 512)) :
    registerWidth id = none := by
  simp only [registerWidth]
  grind

/-- Settles O22: an id names a register below 16, a RAM cell, or nothing. -/
theorem setRegisterWritesOneRegister : Obligations.SetRegisterWritesOneRegister := by
  unfold Obligations.SetRegisterWritesOneRegister
  intro id value s hram
  rcases Nat.lt_or_ge id 16 with hlow | hhigh
  · obtain ⟨width, hwidth, hset⟩ := setsRegister_of_lt value s hlow
    rw [hwidth]
    exact hset
  · by_cases hcell : 256 ≤ id ∧ id < 512
    · rw [registerWidth_ram hcell]
      exact setsRegister_of_ram hram hcell
    · rw [registerWidth_refused hhigh hcell]
      exact register_refused value s hhigh hcell

end Sys2Proof.Machine
end
